-- ==== Sys2Proof/Word.lean ====
section
/-! DEFINITION. The widths of the block's values (00_scope.md R8, R16) and strings of a fixed number of bytes. -/

namespace Sys2Proof

/-- A byte of BUFMEM, of a key or of a string. -/
abbrev Byte := BitVec 8

/-- A 32-bit register, seed or command word. -/
abbrev Word := BitVec 32

/-- A 16-bit stream counter. -/
abbrev Counter := BitVec 16

/-- Exactly `n` bytes, byte 0 first. The length is part of the value, so a key half of the wrong size cannot be built. -/
structure Bytes (n : Nat) where
  toList : List Byte
  length_eq : toList.length = n
  deriving DecidableEq, Repr

/-- The string whose byte `j` is `f j`. -/
def Bytes.ofFn (n : Nat) (f : Nat → Byte) : Bytes n :=
  ⟨(List.range n).map f, by simp⟩

/-- `n` zero bytes. -/
def Bytes.zero (n : Nat) : Bytes n :=
  ⟨List.replicate n 0, by simp⟩

end Sys2Proof
end

