-- ==== Sys2Proof/Machine/Bits.lean ====
section
/-! DEFINITION. The byte helpers of 00_scope.md R11, and the packing of bytes and fields into register words. -/

namespace Sys2Proof.Machine

/-- byte(v, k) = v[8k+7:8k], little-endian (00_scope.md R11, 20_memory.md R76). -/
def byteAt (v : Word) (k : Nat) : Byte := v.extractLsb' (8 * k) 8

/-- lo8(c) = c[7:0]. -/
def lo8 (c : Counter) : Byte := c.extractLsb' 0 8

/-- hi8(c) = c[15:8]. -/
def hi8 (c : Counter) : Byte := c.extractLsb' 8 8

/-- swap4(b): the high and the low nibble exchanged (00_scope.md R11). -/
def swap4 (b : Byte) : Byte := (b >>> 4) ||| (b <<< 4)

/-- The register word whose byte `k` is `f k` (20_memory.md R77). -/
def wordOfBytes (f : Nat → Byte) : Word := f 3 ++ f 2 ++ f 1 ++ f 0

/-- A flag as bit `n` of a register word. -/
def flagAt (b : Bool) (n : Nat) : Word := if b then 1#32 <<< n else 0

end Sys2Proof.Machine
end

