-- ==== Sys2Proof/Config.lean ====
section
/-! DEFINITION. What an implementation of the block fixes: the parameters of 00_scope.md R8. An OPEN parameter is an
opaque constant, so that nothing can be proved of its value. -/

namespace Sys2Proof

/-- The three variants, in order of increasing capability (00_scope.md R3). KIND's value 3 never occurs (10_state.md R33). -/
inductive Kind where
  | standard
  | vector128
  | vector256
  deriving DecidableEq, Repr

/-- The parameters of 00_scope.md R8, fixed for a run (10_state.md R63). Every value of every field is legal but for
the length of a name (`Params.wf`). -/
structure Params where
  /-- N_CTX − 1, so that N_CTX ≥ 1 (D37). -/
  extraContexts : Nat
  /-- BUFMEM_SIZE − 1, so that 1 ≤ BUFMEM_SIZE ≤ 2^32 (D14). -/
  bufMemLast : Word
  /-- BLOCK_BASE, a host address (D43). -/
  blockBase : Nat
  /-- CAP_SSE2: the CPU offers 128-bit vector support (D21). -/
  capSse2 : Bool
  /-- CAP_AVX2: the CPU offers 256-bit vector support (D21). -/
  capAvx2 : Bool
  /-- CAP_VENDOR (D23). -/
  capVendor : Bytes 12
  /-- CAP_BRAND (D23). -/
  capBrand : Bytes 48
  /-- CAP_OTHER, already vendor gated (40_capability.md R133, D24). -/
  capOther : BitVec 128
  /-- IMPL_NAME(Standard), ASCII, at most 31 characters (10_state.md R51, D25). -/
  nameStandard : List (BitVec 7)
  /-- IMPL_NAME(Vector128). -/
  nameVector128 : List (BitVec 7)
  /-- IMPL_NAME(Vector256). -/
  nameVector256 : List (BitVec 7)
  /-- DEFAULT_P (D19). -/
  defaultP : Word
  /-- DEFAULT_G (D19). -/
  defaultG : Word
  deriving DecidableEq, Repr

/-- IMPL_NAME is at most 31 bytes for every kind (00_scope.md R8). -/
abbrev Params.wf (p : Params) : Prop :=
  p.nameStandard.length ≤ 31 ∧ p.nameVector128.length ≤ 31 ∧ p.nameVector256.length ≤ 31

namespace Config

/-- OPEN: N_CTX − 1 (log 1). -/
opaque extraContexts : Nat
/-- OPEN: BUFMEM_SIZE − 1 (log 1). -/
opaque bufMemLast : Word
/-- OPEN: BLOCK_BASE (log 1). -/
opaque blockBase : Nat
/-- OPEN: CAP_SSE2 (log 1). -/
opaque capSse2 : Bool
/-- OPEN: CAP_AVX2 (log 1). -/
opaque capAvx2 : Bool
/-- OPEN: byte `j` of CAP_VENDOR (log 1). -/
opaque capVendorByte : Nat → Byte
/-- OPEN: byte `j` of CAP_BRAND (log 1). -/
opaque capBrandByte : Nat → Byte
/-- OPEN: CAP_OTHER (log 1). -/
opaque capOther : BitVec 128
/-- OPEN: IMPL_NAME of each kind (log 1, log 13). -/
opaque implName : Kind → List (BitVec 7)

/-- The parameters of this implementation: the OPEN ones free, the default seeds as D19 decides them. -/
def params : Params where
  extraContexts := extraContexts
  bufMemLast := bufMemLast
  blockBase := blockBase
  capSse2 := capSse2
  capAvx2 := capAvx2
  capVendor := Bytes.ofFn 12 capVendorByte
  capBrand := Bytes.ofFn 48 capBrandByte
  capOther := capOther
  nameStandard := (implName .standard).take 31
  nameVector128 := (implName .vector128).take 31
  nameVector256 := (implName .vector256).take 31
  defaultP := 0x13FA0F9D
  defaultG := 0x6D5C7962

end Config

end Sys2Proof
end

