-- ==== Sys2Proof/Machine/Capability.lean ====
section
/-! DEFINITION. The capability detector and what the selector reads from it (40_capability.md, 43_selection.md section 1). -/

namespace Sys2Proof.Machine

/-- The capability snapshot behind the capability window (40_capability.md R131, 10_state.md R55 to R58). -/
structure Snapshot where
  valid : Bool
  isIntel : Bool
  isAmd : Bool
  sse2 : Bool
  avx2 : Bool
  vendor : Bytes 12
  brand : Bytes 48
  other : BitVec 128
  deriving DecidableEq, Repr

/-- Every capability register reads 0 during reset (10_state.md R55 to R58). -/
def Snapshot.zero : Snapshot where
  valid := false
  isIntel := false
  isAmd := false
  sse2 := false
  avx2 := false
  vendor := Bytes.zero 12
  brand := Bytes.zero 48
  other := 0

/-- VENDOR_1, the ASCII bytes of "GenuineIntel" (40_capability.md R132). -/
def vendorIntel : List Byte :=
  [0x47, 0x65, 0x6E, 0x75, 0x69, 0x6E, 0x65, 0x49, 0x6E, 0x74, 0x65, 0x6C]

/-- VENDOR_2, the ASCII bytes of "AuthenticAMD" (40_capability.md R132). -/
def vendorAmd : List Byte :=
  [0x41, 0x75, 0x74, 0x68, 0x65, 0x6E, 0x74, 0x69, 0x63, 0x41, 0x4D, 0x44]

/-- Detection: the snapshot of what the CPU reports (40_capability.md R131). It cannot fail (R135). -/
def detect (p : Params) : Snapshot where
  valid := true
  isIntel := p.capVendor.toList == vendorIntel
  isAmd := p.capVendor.toList == vendorAmd
  sse2 := p.capSse2
  avx2 := p.capAvx2
  vendor := p.capVendor
  brand := p.capBrand
  other := p.capOther

/-- SUPPORTED(kind) (43_selection.md R230). -/
def supported (snap : Snapshot) (kind : Kind) : Bool :=
  match kind with
  | .standard => true
  | .vector128 => snap.sse2
  | .vector256 => snap.avx2

/-- BEST: Vector256 before Vector128 before Standard (43_selection.md R231). -/
def best (snap : Snapshot) : Kind :=
  if snap.avx2 then .vector256 else if snap.sse2 then .vector128 else .standard

/-- W(kind), the vector width in bytes (00_scope.md R8). -/
def vectorWidth (kind : Kind) : Nat :=
  match kind with
  | .standard => 1
  | .vector128 => 16
  | .vector256 => 32

/-- The code of a kind in CREATE's VAR field and in INFO.KIND (30_encoding.md R103, 10_state.md R48). -/
def kindCode (kind : Kind) : Nat :=
  match kind with
  | .standard => 0
  | .vector128 => 1
  | .vector256 => 2

/-- The kind of a variant code; 3 and above are "an unrecognized value" (30_encoding.md R103). -/
def kindOfCode (var : Nat) : Option Kind :=
  match var with
  | 0 => some .standard
  | 1 => some .vector128
  | 2 => some .vector256
  | _ => none

/-- IMPL_NAME(kind) (10_state.md R51). -/
def implName (p : Params) (kind : Kind) : List (BitVec 7) :=
  match kind with
  | .standard => p.nameStandard
  | .vector128 => p.nameVector128
  | .vector256 => p.nameVector256

/-- BUFMEM_SIZE (00_scope.md R8). -/
def bufMemSize (p : Params) : Nat := p.bufMemLast.toNat + 1

/-- N_CTX (00_scope.md R8). -/
def nCtx (p : Params) : Nat := p.extraContexts + 1

end Sys2Proof.Machine
end

