-- ==== Sys2Proof/Machine/Memory.lean ====
section
/-! DEFINITION. Buffer memory BUFMEM as a list of cells in one canonical form (20_memory.md R71, R72). -/

namespace Sys2Proof.Machine

/-- The content of BUFMEM: listed bytes by rising address, none equal to `unlistedByte`. -/
abbrev Memory := List Host.Cell

/-- What an address that is not listed reads as. The spec gives BUFMEM no reset content (10_state.md R62, U18): DESIGN
CHOICE 0, log 4 (unsafe). Any content of BUFMEM is some `Memory`. -/
def unlistedByte : Byte := 0

/-- The canonical form. -/
abbrev Memory.wf (m : Memory) : Prop :=
  m.Pairwise (fun c d => c.1 < d.1) ∧ ∀ c ∈ m, c.2 ≠ unlistedByte

/-- The byte at an address. -/
def Memory.read : Memory → Nat → Byte
  | [], _ => unlistedByte
  | c :: m, a => if c.1 = a then c.2 else Memory.read m a

/-- Put a cell before the first cell of a higher address. -/
def Memory.insertCell : Memory → Host.Cell → Memory
  | [], c => [c]
  | d :: m, c => if c.1 < d.1 then c :: d :: m else d :: Memory.insertCell m c

/-- Write one byte, keeping the canonical form. -/
def Memory.write (m : Memory) (a : Nat) (b : Byte) : Memory :=
  let rest := m.filter (fun c => c.1 != a)
  if b = unlistedByte then rest else Memory.insertCell rest (a, b)

/-- MemRead(a, n) (20_memory.md R72): the bytes at a, a + 1, …, a + n − 1. -/
def Memory.readBytes (m : Memory) (a : Nat) : Nat → List Byte
  | 0 => []
  | n + 1 => Memory.read m a :: Memory.readBytes m (a + 1) n

/-- MemWrite(a, n, v) (20_memory.md R72): byte v[j] at address a + j. -/
def Memory.writeBytes (m : Memory) (a : Nat) : List Byte → Memory
  | [] => m
  | b :: bs => Memory.writeBytes (Memory.write m a b) (a + 1) bs

end Sys2Proof.Machine
end

