-- ==== Sys2Proof/Machine/State.lean ====
section
/-! DEFINITION. The state of the block (10_state.md), the reasons a step stops, and the state right after reset. -/

namespace Sys2Proof.Machine

/-- Why the machine stops with a fault. -/
inductive Fault where
  /-- Raised by a host access to BUFMEM that names an address at or above BUFMEM_SIZE: 20_memory.md R71 gives BUFMEM no
  such byte (log 7). Safe: nothing is claimed of such a run. No command raises it, a command checks its range first (R186). -/
  | outsideBufMem
  deriving DecidableEq, Repr

/-- Why the model refuses a step. -/
inductive Refusal where
  /-- Raised by an arm of `exec` whose command has no meaning yet (no arm of this model). Safe. -/
  | notModelled (mnemonic : String)
  /-- Raised by a host register access that is not 32 bits wide (10_state.md R53, 60_exceptions.md R267). Safe. -/
  | accessWidth
  /-- Raised by a 32-bit host register access that is not naturally aligned (10_state.md R53, 60_exceptions.md R267). Safe. -/
  | misalignedAccess
  /-- Raised by a host register access outside the block's windows: another device's address (log 8). Safe. -/
  | outsideBlock
  /-- Raised by a host access to a buffer byte of a command not yet observed complete (20_memory.md R87 a). Safe. -/
  | bufferRace
  /-- Raised by a CMD write whose buffer overlaps that of another context's command in flight (20_memory.md R87 b). Safe. -/
  | overlappingCommands
  /-- Raised by a command, or a scheduled step, of a context number that is not below N_CTX (60_exceptions.md R277, log 9).
  Safe. -/
  | noSuchContext
  deriving DecidableEq, Repr

/-- The result codes of 60_exceptions.md R260; the codes 7 to 15 are never produced. -/
inductive ResultCode where
  | ok
  | unsupportedVariant
  | unknownVariant
  | invalidArgument
  | illegalCommand
  | notCreated
  | accessFault
  deriving DecidableEq, Repr

/-- A key: two halves of 256 bytes, each followed by its wrap window (10_state.md R38 to R40). -/
structure Key where
  k1 : Bytes 256
  k2 : Bytes 256
  wrap1 : List Byte
  wrap2 : List Byte
  deriving DecidableEq, Repr

/-- The key of a context that holds no engine: all bytes 0, and no wrap window, since KIND is Standard (10_state.md R40, R62). -/
def Key.zero : Key := ⟨Bytes.zero 256, Bytes.zero 256, [], []⟩

/-- A range of BUFMEM: `len` bytes from `start`. -/
structure Span where
  start : Nat
  len : Nat
  deriving DecidableEq, Repr

/-- An engine context (10_state.md R32). -/
structure Context where
  /-- CREATED (R34). -/
  created : Bool
  /-- KIND (R33). -/
  kind : Kind
  /-- USE_ALT, the active-key flag (R35). -/
  useAlt : Bool
  /-- ENC_CTR (R36). -/
  encCtr : Counter
  /-- DEC_CTR (R37). -/
  decCtr : Counter
  /-- BASE, the base key (R38). -/
  base : Key
  /-- ALT, the alternate key (R39). -/
  alt : Key
  /-- The command word in flight: a command started and not yet performed (20_memory.md R80). STATUS.BUSY is its presence (R43). -/
  pending : Option Word
  /-- STATUS.CODE (R43). -/
  code : ResultCode
  /-- STATUS.ERR_STICKY (R43). -/
  errSticky : Bool
  /-- STATUS.BUSYVIOL (R43). -/
  busyViol : Bool
  /-- ARG0 (R44). -/
  arg0 : Word
  /-- ARG1 (R45). -/
  arg1 : Word
  /-- BUF_ADDR (R46). -/
  bufAddr : Word
  /-- LEN (R47). -/
  len : Word
  /-- L_ARG0, the latched ARG0 (R59). -/
  lArg0 : Word
  /-- L_ARG1, the latched ARG1 (R59). -/
  lArg1 : Word
  /-- L_ADDR, the latched BUF_ADDR (R59). -/
  lAddr : Word
  /-- L_LEN, the latched LEN (R59). -/
  lLen : Word
  /-- The model's own: the buffers of commands started and not yet observed complete (20_memory.md R87 a, log 5, log 6). -/
  owned : List Span
  deriving DecidableEq, Repr

/-- A context after block reset: state NONE, everything 0 (10_state.md R62, 70_reset_and_hazards.md R300). -/
def Context.reset : Context where
  created := false
  kind := .standard
  useAlt := false
  encCtr := 0
  decCtr := 0
  base := Key.zero
  alt := Key.zero
  pending := none
  code := .ok
  errSticky := false
  busyViol := false
  arg0 := 0
  arg1 := 0
  bufAddr := 0
  len := 0
  lArg0 := 0
  lArg1 := 0
  lAddr := 0
  lLen := 0
  owned := []

/-- Where block reset stands (70_reset_and_hazards.md R300): not in reset, or the step it performs next. -/
inductive ResetPhase where
  /-- Not in reset: the host can access the block. -/
  | running
  /-- Step 1 is next: every context takes its reset values. -/
  | contexts
  /-- Step 2 is next: the detector performs its detection. -/
  | detect
  /-- Step 3 is next: VALID becomes 1 and reset ends. -/
  | finish
  deriving DecidableEq, Repr

/-- Something outside a command that happens to the block: an input of the host, the free instant at which a context
performs its command (20_memory.md R80), or block reset. -/
inductive Event where
  /-- The host reads `width` bytes at a host address of the register space. -/
  | regRead (addr width : Nat)
  /-- The host writes `width` bytes at a host address of the register space. -/
  | regWrite (addr width : Nat) (value : Word)
  /-- The host reads `count` bytes of BUFMEM, as one indivisible access (log 20). -/
  | memRead (addr count : Nat)
  /-- The host writes bytes to BUFMEM, as one indivisible access (log 20). -/
  | memWrite (addr : Nat) (bytes : List Byte)
  /-- Context `ctx` performs the command it has started. -/
  | perform (ctx : Nat)
  /-- Block reset is applied. -/
  | blockReset
  deriving DecidableEq, Repr

/-- What the block, or BUFMEM, answered to the host's last access. -/
inductive Reply where
  /-- The last access returned no data. -/
  | none
  /-- A register read returned this word. -/
  | word (value : Word)
  /-- A BUFMEM read returned these bytes. -/
  | bytes (values : List Byte)
  deriving DecidableEq, Repr

/-- The whole machine: the block (10_state.md), BUFMEM (20_memory.md R71), and the model's own fields (log 2, log 12). -/
structure State where
  /-- The parameters of the run (10_state.md R63): no step writes them (log 1). -/
  params : Params
  /-- The stage of block reset (70_reset_and_hazards.md R300). -/
  phase : ResetPhase
  /-- The capability snapshot (40_capability.md R131). -/
  snap : Snapshot
  /-- The contexts 0 to N_CTX − 1 (60_exceptions.md R277). -/
  ctxs : List Context
  /-- BUFMEM (20_memory.md R71). -/
  bufmem : Memory
  /-- The model's own: the context whose command is performed. -/
  active : Nat
  /-- The model's own: the events still to happen, the next one first (log 2). -/
  agenda : List Event
  /-- The model's own: the answer to the host's last access (log 12). -/
  reply : Reply
  deriving DecidableEq, Repr

/-- The state right after a block reset of a block with these parameters has ended (10_state.md R62). -/
def State.resetWith (p : Params) : State where
  params := p
  phase := .running
  snap := detect p
  ctxs := List.replicate (nCtx p) Context.reset
  bufmem := []
  active := 0
  agenda := []
  reply := .none

/-- The machine right after reset (10_state.md R62), every OPEN parameter free. -/
def State.reset : State := State.resetWith Config.params

end Sys2Proof.Machine
end

