-- ==== Sys2Proof/Machine/Flags.lean ====
section
/-! DEFINITION. The status fields of a context: BUSY, CODE, ERR_STICKY, BUSYVIOL (10_state.md R43), and how they change. -/

namespace Sys2Proof.Machine

/-- The number of a result code (60_exceptions.md R260). -/
def resultNumber (r : ResultCode) : Nat :=
  match r with
  | .ok => 0
  | .unsupportedVariant => 1
  | .unknownVariant => 2
  | .invalidArgument => 3
  | .illegalCommand => 4
  | .notCreated => 5
  | .accessFault => 6

/-- STATUS.BUSY: a command has been started and not yet performed (10_state.md R43). -/
def busy (c : Context) : Bool := c.pending.isSome

/-- The end of a command with code `r` (10_state.md R43, 60_exceptions.md R262): CODE, ERR_STICKY on an error, BUSY falls. -/
def withResult (c : Context) (r : ResultCode) : Context :=
  { c with code := r, errSticky := c.errSticky || r != .ok, pending := none }

/-- A host access refused because BUSY = 1 (60_exceptions.md R266). -/
def withBusyViolation (c : Context) : Context := { c with busyViol := true }

/-- The STATUS register (10_state.md R43): bit 0 BUSY, bits 7:4 CODE, bit 8 ERR_STICKY, bit 9 BUSYVIOL, the others 0. -/
def statusWord (c : Context) : Word :=
  flagAt (busy c) 0 ||| BitVec.ofNat 32 (resultNumber c.code) <<< 4 ||| flagAt c.errSticky 8 ||| flagAt c.busyViol 9

/-- The INFO register (10_state.md R48): bits 1:0 KIND, bit 4 CREATED, bit 5 USE_ALT, bits 15:8 VWIDTH, the others 0.
KIND and VWIDTH read 0 when CREATED = 0. -/
def infoWord (c : Context) : Word :=
  (if c.created then BitVec.ofNat 32 (kindCode c.kind) else 0)
    ||| flagAt c.created 4 ||| flagAt c.useAlt 5
    ||| (if c.created then BitVec.ofNat 32 (vectorWidth c.kind) <<< 8 else 0)

end Sys2Proof.Machine
end

