-- ==== Sys2Proof/Syntax.lean ====
section
/-! DEFINITION. The commands, one constructor per row of spec/opcode_table.json (30_encoding.md R104). -/

namespace Sys2Proof

/-- A command. The 32-bit operands are not in the word: a command reads them from the latches of its context
(30_encoding.md R101, R102). -/
inductive Instr where
  /-- CREATE_DEFAULT (43_selection.md R233). -/
  | createDefault
  /-- CREATE with the variant code of its VAR field (43_selection.md R234). -/
  | create (var : Nat)
  /-- GEN_KEY (41_key_generation.md R153). -/
  | genKey
  /-- GEN_ALT_KEY (41_key_generation.md R156). -/
  | genAltKey
  /-- ENCRYPT (42_stream_transform.md R184). -/
  | encrypt
  /-- DECRYPT (42_stream_transform.md R185). -/
  | decrypt
  /-- RESET_COUNTERS (42_stream_transform.md R187). -/
  | resetCounters
  deriving DecidableEq, Repr

end Sys2Proof
end

