-- ==== Sys2Proof/WellFormed.lean ====
section
/-! DEFINITION. Which commands an encoding exists for. -/

namespace Sys2Proof

/-- The VAR field is 4 bits wide (30_encoding.md R100), so a CREATE has a word only for a code below 16. Every other
command has exactly one word. The codes 3 to 15 are legal encodings of an invalid operand (R107). -/
def Instr.wellFormed : Instr → Bool
  | .createDefault => true
  | .create var => decide (var < 16)
  | .genKey => true
  | .genAltKey => true
  | .encrypt => true
  | .decrypt => true
  | .resetCounters => true

/-- `i` has an encoding. -/
abbrev WellFormed (i : Instr) : Prop := i.wellFormed = true

end Sys2Proof
end

