-- ==== Sys2Proof/Decode.lean ====
section
/-! DEFINITION. Decoding a command word (30_encoding.md R100 to R108), and the encoder written from the same table. -/

namespace Sys2Proof

/-- Why a word is no command: each reason is `IllegalCommand` (30_encoding.md R105, R106). -/
inductive DecodeError where
  /-- RSV (bits 31:12) is not 0. -/
  | reservedBits
  /-- OPC (bits 7:0) is 0x00 or 0x08 to 0xFF. -/
  | unknownOpcode
  /-- VAR (bits 11:8) is not 0 and OPC is not CREATE's. -/
  | variantField
  deriving DecidableEq, Repr

/-- OPC, bits 7:0 (30_encoding.md R100). -/
def opcField (w : Word) : BitVec 8 := w.extractLsb' 0 8

/-- VAR, bits 11:8. -/
def varField (w : Word) : BitVec 4 := w.extractLsb' 8 4

/-- RSV, bits 31:12. -/
def rsvField (w : Word) : BitVec 20 := w.extractLsb' 12 20

/-- The command of an opcode that takes no variant (30_encoding.md R104). -/
def plainOpcode (opc : Nat) : Option Instr :=
  match opc with
  | 0x01 => some .createDefault
  | 0x03 => some .genKey
  | 0x04 => some .genAltKey
  | 0x05 => some .encrypt
  | 0x06 => some .decrypt
  | 0x07 => some .resetCounters
  | _ => none

/-- Decoding of a command word, its checks in the order of 30_encoding.md R105. No mode or state changes it (R108). -/
def decode (w : Word) : Except DecodeError Instr :=
  if rsvField w ≠ 0 then .error .reservedBits
  else if (opcField w).toNat = 0x02 then .ok (.create (varField w).toNat)
  else
    match plainOpcode (opcField w).toNat with
    | none => .error .unknownOpcode
    | some i => if varField w ≠ 0 then .error .variantField else .ok i

/-- The word of a well-formed command (30_encoding.md R104, opcode_table.json). -/
def encode (i : Instr) : Word :=
  match i with
  | .createDefault => 0x00000001
  | .create var => 0x00000002 + 0x100 * BitVec.ofNat 32 var
  | .genKey => 0x00000003
  | .genAltKey => 0x00000004
  | .encrypt => 0x00000005
  | .decrypt => 0x00000006
  | .resetCounters => 0x00000007

/-- What `decode` reads from an instruction whose bits, as opcode_table.json numbers them, are `w`. A command is one
32-bit word (30_encoding.md R101): the bits above `nbits` are 0, and a number that does not fit in 32 bits is no command. -/
def decodeTableWord (nbits w : Nat) : Option Instr :=
  if w % 2 ^ nbits < 2 ^ 32 then
    match decode (BitVec.ofNat 32 (w % 2 ^ nbits)) with
    | .ok i => some i
    | .error _ => none
  else none

end Sys2Proof
end

