-- ==== Sys2Proof/Machine/Operands.lean ====
section
/-! DEFINITION. The operands of the commands, read from the latches (30_encoding.md R102, 10_state.md R59), and the checks on
them (42_stream_transform.md R186). -/

namespace Sys2Proof.Machine

/-- Seed P of GEN_KEY. -/
def seedP (c : Context) : Word := c.lArg0

/-- Seed G of GEN_KEY. -/
def seedG (c : Context) : Word := c.lArg1

/-- Seed A of GEN_ALT_KEY: a 32-bit pattern (41_key_generation.md R154). -/
def seedA (c : Context) : Word := c.lArg0

/-- Seed B of GEN_ALT_KEY. -/
def seedB (c : Context) : Word := c.lArg1

/-- addr of ENCRYPT and DECRYPT: an unsigned BUFMEM address. -/
def bufferAddr (c : Context) : Nat := c.lAddr.toNat

/-- len of ENCRYPT and DECRYPT: sint_32(L_LEN). -/
def bufferLen (c : Context) : Int := c.lLen.toInt

/-- The number of bytes a stream command transforms once `checkBuffer` has passed. -/
def bufferCount (c : Context) : Nat := (bufferLen c).toNat

/-- CHECK_BUFFER (42_stream_transform.md R186): null or length ≤ 0 first, then the range, without wrap-around. -/
def checkBuffer (p : Params) (c : Context) : Option ResultCode :=
  if c.lAddr = 0 ∨ bufferLen c ≤ 0 then some .invalidArgument
  else if (bufMemSize p : Int) < bufferAddr c + bufferLen c then some .accessFault
  else none

/-- The buffer a command word uses with these latched operands: that of an ENCRYPT or DECRYPT of length above 0
(20_memory.md R71, R87, 70_reset_and_hazards.md R312; log 5). -/
def commandSpan (w addr len : Word) : Option Span :=
  match decode w with
  | .ok .encrypt | .ok .decrypt => if len.toInt ≤ 0 then none else some ⟨addr.toNat, len.toNat⟩
  | _ => none

/-- The buffer of the command a context has in flight. -/
def flightSpan (c : Context) : Option Span :=
  match c.pending with
  | none => none
  | some w => commandSpan w c.lAddr c.lLen

/-- Two ranges have a byte in common. -/
def Span.overlaps (x y : Span) : Bool :=
  max x.start y.start < min (x.start + x.len) (y.start + y.len)

end Sys2Proof.Machine
end

