-- ==== Sys2Proof/Machine/Ops.lean ====
section
/-! DEFINITION. The named operations over contexts and BUFMEM that the commands share: acting in a context, ending a command,
raising an error. -/

namespace Sys2Proof.Machine

/-- Replace context `k`. -/
def setCtx (s : State) (k : Nat) (c : Context) : State :=
  { s with ctxs := s.ctxs.set k c }

/-- Run a command in the context it was started in. A context number that is not below N_CTX has no command
(60_exceptions.md R277, log 9). -/
def inActive (s : State) (f : Context → State) : Host.Outcome State Fault Refusal :=
  match s.ctxs[s.active]? with
  | none => .refused .noSuchContext
  | some c => .next (f c)

/-- The one atomic step that ends a command (20_memory.md R80): the context, BUFMEM and STATUS take their new values together. -/
def endCommand (s : State) (c : Context) (m : Memory) (r : ResultCode) : State :=
  { setCtx s s.active (withResult c r) with bufmem := m }

/-- raise E (60_exceptions.md R262): the block's one exception entry. CODE takes E, ERR_STICKY is set, BUSY falls, and no
other state changes: nothing is saved, no handler runs, and there is no return (R271, R272). The `info` is recorded nowhere. -/
def raiseError (s : State) (c : Context) (e : ResultCode) : State :=
  endCommand s c s.bufmem e

/-- The commands 0x03 to 0x07 need a created engine (60_exceptions.md R261). -/
def ifCreated (s : State) (c : Context) (t : State) : State :=
  if c.created then t else raiseError s c .notCreated

end Sys2Proof.Machine
end

