-- ==== Sys2Proof/Machine/Cipher.lean ====
section
/-! DEFINITION. The byte pipeline, the reference transform and the vector block form (42_stream_transform.md R180 to R195). -/

namespace Sys2Proof.Machine

/-- The byte of a key half that an 8-bit index selects. -/
def keyByte (h : Bytes 256) (i : Byte) : Byte :=
  h.toList[i.toNat]'(by rw [h.length_eq]; exact i.isLt)

/-- CIPHER_BYTE(b, c, K), its four stages (R180). -/
def cipherByte (b : Byte) (c : Counter) (k : Key) : Byte :=
  let s1 := b ^^^ 0xAB
  let s2 := swap4 s1
  let s3 := s2 ^^^ keyByte k.k1 (lo8 c)
  s3 ^^^ keyByte k.k2 (hi8 c)

/-- INV_BYTE(e, c, K): the inverse of the byte pipeline, which a peer applies and this block never does (R195, C1). -/
def invByte (e : Byte) (c : Counter) (k : Key) : Byte :=
  swap4 (e ^^^ keyByte k.k1 (lo8 c) ^^^ keyByte k.k2 (hi8 c)) ^^^ 0xAB

/-- TRANSFORM(buf, c0, K) (R182): the bytes in order, the counter advancing by one after each, modulo 65536 (R181). -/
def transform (k : Key) : Counter → List Byte → List Byte × Counter
  | c, [] => ([], c)
  | c, b :: bs =>
    let rest := transform k (c + 1) bs
    (cipherByte b c k :: rest.1, rest.2)

/-- K1X and K2X: a key half followed by its wrap window (R189). -/
def extended (h : Bytes 256) (wrap : List Byte) : List Byte := h.toList ++ wrap

/-- VKEY1 (R190): W contiguous bytes from index lo8(c). The index stays inside K1X while the wrap window has its W − 1 bytes
(10_state.md R40, log 15). -/
def vkey1 (k1x : List Byte) (c : Counter) (w : Nat) : List Byte :=
  (List.range w).map fun j => k1x.getD ((lo8 c).toNat + j) 0

/-- VKEY2 (R191): one key2 byte broadcast, or two constant runs where the window straddles a multiple of 256. -/
def vkey2 (k2x : List Byte) (c : Counter) (w : Nat) : List Byte :=
  let m := 256 - (lo8 c).toNat
  let hi := (hi8 c).toNat
  (List.range w).map fun j => if w ≤ m ∨ j < m then k2x.getD hi 0 else k2x.getD (hi + 1) 0

/-- VROT in 8-bit lanes (R192). -/
def vrot (v : Byte) : Byte := ((v >>> 4) &&& 0x0F) ||| ((v <<< 4) &&& 0xF0)

/-- VROT in a 16-bit lane, the emulation on a 128-bit vector (R192, C4). Which lane width is used cannot be observed. -/
def vrotLane16 (u : BitVec 16) : BitVec 16 := ((u >>> 4) &&& 0x0F0F) ||| ((u <<< 4) &&& 0xF0F0)

/-- One vector block of R189: W bytes at once. -/
def vblock (k : Key) (w : Nat) (c : Counter) (block : List Byte) : List Byte :=
  let k1v := vkey1 (extended k.k1 k.wrap1) c w
  let k2v := vkey2 (extended k.k2 k.wrap2) c w
  List.zipWith (fun b x => vrot (b ^^^ 0xAB) ^^^ x) block (List.zipWith (· ^^^ ·) k1v k2v)

/-- The block loop of VTRANSFORM (R189): `n` vector blocks, each advancing the counter by W, then the scalar loop. -/
def vtransformBlocks (k : Key) (w : Nat) : Nat → Counter → List Byte → List Byte × Counter
  | 0, c, buf => transform k c buf
  | n + 1, c, buf =>
    let rest := vtransformBlocks k w n (c + BitVec.ofNat 16 w) (buf.drop w)
    (vblock k w c (buf.take w) ++ rest.1, rest.2)

/-- VTRANSFORM(buf, c, K, W) (R189): floor(n / W) vector blocks, then the remaining n mod W bytes. -/
def vtransform (k : Key) (w : Nat) (c : Counter) (buf : List Byte) : List Byte × Counter :=
  vtransformBlocks k w (buf.length / w) c buf

/-- What the engine of a variant computes: the reference transform, or the vector form in its width (R188, R189). -/
def engineTransform (kind : Kind) (k : Key) (c : Counter) (buf : List Byte) : List Byte × Counter :=
  match kind with
  | .standard => transform k c buf
  | .vector128 => vtransform k (vectorWidth .vector128) c buf
  | .vector256 => vtransform k (vectorWidth .vector256) c buf

end Sys2Proof.Machine
end

