-- ==== Sys2Proof/Machine/KeyGen.lean ====
section
/-! DEFINITION. Key generation: KEYGEN, ALTDERIVE, WRAPFILL, GEN_KEY and GEN_ALT_KEY (41_key_generation.md). -/

namespace Sys2Proof.Machine

/-- `n` bytes of a key half: the running byte is written, then updated, strictly in sequence (R150, R151). -/
def recurrence (update : Byte → Byte) : Nat → Byte → List Byte
  | 0, _ => []
  | n + 1, b => b :: recurrence update n (update b)

/-- A half of a key has its 256 bytes. -/
theorem recurrence_length (update : Byte → Byte) : ∀ n b, (recurrence update n b).length = n
  | 0, _ => rfl
  | n + 1, b => congrArg (· + 1) (recurrence_length update n (update b))

/-- The update of p0 in KEYGEN (R150); the bytes p1 to p3 keep their seed values (R151, C5). -/
def updateP (p : Word) (p0 : Byte) : Byte :=
  (byteAt p 1 + p0 * byteAt p 2) * p0 + byteAt p 3

/-- The update of g0 in KEYGEN (R150). -/
def updateG (g : Word) (g0 : Byte) : Byte :=
  (byteAt g 1 - g0 * byteAt g 2) * g0 + byteAt g 3

/-- K1 of KEYGEN(P, G) (R150). -/
def keygen1 (p : Word) : Bytes 256 :=
  ⟨recurrence (updateP p) 256 (byteAt p 0), recurrence_length _ _ _⟩

/-- K2 of KEYGEN(P, G) (R150). -/
def keygen2 (g : Word) : Bytes 256 :=
  ⟨recurrence (updateG g) 256 (byteAt g 0), recurrence_length _ _ _⟩

/-- The word x of ALTDERIVE (R152). -/
def altX (a b : Word) : Word := ((a + b) ^^^ 0x00004321) ^^^ a

/-- The word y of ALTDERIVE (R152). -/
def altY (a b : Word) : Word := altX a b * altX a b

/-- A key half with byte `i` exclusive-ored with byte(v, i mod 4) (R152). -/
def xorHalf (h : Bytes 256) (v : Word) : Bytes 256 :=
  ⟨h.toList.mapIdx fun i b => b ^^^ byteAt v (i % 4), by simp [h.length_eq]⟩

/-- The wrap window of a half in a context of this kind (R157): its first W − 1 bytes. A Standard context has none. -/
def wrapOf (kind : Kind) (h : Bytes 256) : List Byte := h.toList.take (vectorWidth kind - 1)

/-- The key of two halves, its wrap windows filled by WRAPFILL (R157). -/
def keyOf (kind : Kind) (k1 k2 : Bytes 256) : Key := ⟨k1, k2, wrapOf kind k1, wrapOf kind k2⟩

/-- The base key KEYGEN(P, G) of a context of this kind. -/
def baseKey (kind : Kind) (p g : Word) : Key := keyOf kind (keygen1 p) (keygen2 g)

/-- The alternate key ALTDERIVE(BASE, A, B) of a context of this kind (R152): a function of the base key and the seeds alone
(R155). -/
def altKey (kind : Kind) (base : Key) (a b : Word) : Key :=
  keyOf kind (xorHalf base.k1 (altX a b)) (xorHalf base.k2 (altY a b))

/-- GEN_KEY (R153): the base key and its wrap windows, and nothing else of the engine. -/
def execGenKey (s : State) : Host.Outcome State Fault Refusal :=
  inActive s fun c =>
    ifCreated s c (endCommand s { c with base := baseKey c.kind (seedP c) (seedG c) } s.bufmem .ok)

/-- GEN_ALT_KEY (R156): the alternate key and its wrap windows; USE_ALT becomes 1 and ENC_CTR 0, DEC_CTR stays. -/
def execGenAltKey (s : State) : Host.Outcome State Fault Refusal :=
  inActive s fun c =>
    ifCreated s c
      (endCommand s
        { c with alt := altKey c.kind c.base (seedA c) (seedB c), useAlt := true, encCtr := 0 } s.bufmem .ok)

end Sys2Proof.Machine
end

