-- ==== Sys2Proof/Machine/Select.lean ====
section
/-! DEFINITION. CREATE_DEFAULT and CREATE (43_selection.md section 2). -/

namespace Sys2Proof.Machine

/-- CONSTRUCT(kind) (R232): a fresh engine, its base key made from the default seeds, its alternate key zero with its wrap
windows zero, its counters and USE_ALT 0. It works in every context state (D18). The registers are kept. -/
def construct (p : Params) (c : Context) (kind : Kind) : Context :=
  { c with
    created := true, kind := kind, useAlt := false, encCtr := 0, decCtr := 0,
    base := baseKey kind p.defaultP p.defaultG,
    alt := keyOf kind (Bytes.zero 256) (Bytes.zero 256) }

/-- The context part of CREATE_FAIL(E) (R235): state NONE, every engine state at its reset value. -/
def unconstruct (c : Context) : Context :=
  { c with
    created := false, kind := .standard, useAlt := false, encCtr := 0, decCtr := 0,
    base := Key.zero, alt := Key.zero }

/-- CREATE_DEFAULT (R233). -/
def execCreateDefault (s : State) : Host.Outcome State Fault Refusal :=
  inActive s fun c => endCommand s (construct s.params c (best s.snap)) s.bufmem .ok

/-- CREATE (R234): the variant's code first, then its support, never a fallback to another variant. -/
def execCreate (var : Nat) (s : State) : Host.Outcome State Fault Refusal :=
  inActive s fun c =>
    match kindOfCode var with
    | none => raiseError s (unconstruct c) .unknownVariant
    | some kind =>
      if supported s.snap kind then endCommand s (construct s.params c kind) s.bufmem .ok
      else raiseError s (unconstruct c) .unsupportedVariant

end Sys2Proof.Machine
end

