-- ==== Sys2Proof/Machine/Stream.lean ====
section
/-! DEFINITION. ENCRYPT, DECRYPT and RESET_COUNTERS (42_stream_transform.md section 2). -/

namespace Sys2Proof.Machine

/-- What ENCRYPT and DECRYPT share (R184, R185): the checks in the order of 60_exceptions.md R263, then the transform of the
buffer in place; `commit` puts the advanced counter where the command keeps it. -/
def streamCommand (s : State) (c : Context) (k : Key) (ctr : Counter) (commit : Counter → Context) : State :=
  ifCreated s c
    (match checkBuffer s.params c with
      | some e => raiseError s c e
      | none =>
        let buf := Memory.readBytes s.bufmem (bufferAddr c) (bufferCount c)
        let r := engineTransform c.kind k ctr buf
        endCommand s (commit r.2) (Memory.writeBytes s.bufmem (bufferAddr c) r.1) .ok)

/-- The key DECRYPT uses: the alternate key if and only if USE_ALT is set (R183). -/
def decryptKey (c : Context) : Key := if c.useAlt then c.alt else c.base

/-- ENCRYPT (R184): the base key in every state (R183), and ENC_CTR. -/
def execEncrypt (s : State) : Host.Outcome State Fault Refusal :=
  inActive s fun c => streamCommand s c c.base c.encCtr fun n => { c with encCtr := n }

/-- DECRYPT (R185): the same transform (C1) under the selected key, and DEC_CTR. -/
def execDecrypt (s : State) : Host.Outcome State Fault Refusal :=
  inActive s fun c => streamCommand s c (decryptKey c) c.decCtr fun n => { c with decCtr := n }

/-- RESET_COUNTERS (R187): both counters 0, keys and USE_ALT unchanged. -/
def execResetCounters (s : State) : Host.Outcome State Fault Refusal :=
  inActive s fun c => ifCreated s c (endCommand s { c with encCtr := 0, decCtr := 0 } s.bufmem .ok)

end Sys2Proof.Machine
end

