-- ==== Sys2Proof/Machine/Dispatch.lean ====
section
/-! DEFINITION. The meaning of each command, performed in the active context (30_encoding.md R104). -/

namespace Sys2Proof.Machine

def exec (i : Instr) (s : State) : Host.Outcome State Fault Refusal :=
  match i with
  | .createDefault => Sys2Proof.Machine.execCreateDefault s
  | .create var => Sys2Proof.Machine.execCreate var s
  | .genKey => Sys2Proof.Machine.execGenKey s
  | .genAltKey => Sys2Proof.Machine.execGenAltKey s
  | .encrypt => Sys2Proof.Machine.execEncrypt s
  | .decrypt => Sys2Proof.Machine.execDecrypt s
  | .resetCounters => Sys2Proof.Machine.execResetCounters s

end Sys2Proof.Machine
end

