-- ==== Sys2Proof/Machine/Registers.lean ====
section
/-! DEFINITION. The register map: which register an address names, and what it reads (10_state.md sections 4 and 5). -/

namespace Sys2Proof.Machine

/-- A register of a context window (10_state.md R41). -/
inductive CtxReg where
  | cmd
  | status
  | arg0
  | arg1
  | bufAddr
  | len
  | info
  | encCtr
  | decCtr
  /-- NAME0 to NAME7. -/
  | name (index : Nat)
  /-- Every other offset (R52). -/
  | reserved
  deriving DecidableEq, Repr

/-- A register of the capability window (10_state.md R54). -/
inductive CapReg where
  | capStatus
  /-- VENDOR0 to VENDOR2. -/
  | vendor (index : Nat)
  /-- BRAND0 to BRAND11. -/
  | brand (index : Nat)
  /-- CAP_OTHER0 to CAP_OTHER3. -/
  | capOther (index : Nat)
  /-- Every other offset. -/
  | reserved
  deriving DecidableEq, Repr

/-- A window of the block (20_memory.md R82). -/
inductive Window where
  | capability
  | context (k : Nat)
  deriving DecidableEq, Repr

/-- The register at an offset of a context window (10_state.md R41). -/
def ctxReg (off : Nat) : CtxReg :=
  match off with
  | 0x00 => .cmd
  | 0x04 => .status
  | 0x08 => .arg0
  | 0x0C => .arg1
  | 0x10 => .bufAddr
  | 0x14 => .len
  | 0x18 => .info
  | 0x1C => .encCtr
  | 0x20 => .decCtr
  | _ => if 0x40 ≤ off ∧ off ≤ 0x5C ∧ off % 4 = 0 then .name ((off - 0x40) / 4) else .reserved

/-- The register at an offset of the capability window (10_state.md R54). -/
def capReg (off : Nat) : CapReg :=
  if off = 0x00 then .capStatus
  else if 0x10 ≤ off ∧ off ≤ 0x18 ∧ off % 4 = 0 then .vendor ((off - 0x10) / 4)
  else if 0x20 ≤ off ∧ off ≤ 0x4C ∧ off % 4 = 0 then .brand ((off - 0x20) / 4)
  else if 0x50 ≤ off ∧ off ≤ 0x5C ∧ off % 4 = 0 then .capOther ((off - 0x50) / 4)
  else .reserved

/-- The host address of an offset of a window (20_memory.md R82). -/
def windowAddr (p : Params) (w : Window) (off : Nat) : Nat :=
  match w with
  | .capability => p.blockBase + off
  | .context k => p.blockBase + 0x100 * (k + 1) + off

/-- The window and the offset a host address names: the capability window, then the windows of contexts 0 to N_CTX − 1, each
0x100 bytes (10_state.md R41, R54). -/
def locate (p : Params) (addr : Nat) : Option (Window × Nat) :=
  if addr < p.blockBase then none
  else
    let d := addr - p.blockBase
    if d / 0x100 = 0 then some (.capability, d % 0x100)
    else if d / 0x100 ≤ nCtx p then some (.context (d / 0x100 - 1), d % 0x100)
    else none

/-- Byte `j` of a string, 0 past its end (20_memory.md R77). -/
def stringByte (bs : List Byte) (j : Nat) : Byte := bs.getD j 0

/-- Word `i` of a string packed little-endian: string byte `j` in bits [8(j mod 4)+7 : 8(j mod 4)] of word j div 4
(20_memory.md R77). -/
def stringWord (bs : List Byte) (i : Nat) : Word := wordOfBytes fun k => stringByte bs (4 * i + k)

/-- The 32 bytes of NAME0 to NAME7 (10_state.md R51): the name of the context's kind and zero bytes up to byte 31, which is
always 0; all zero when CREATED = 0. -/
def nameBytes (p : Params) (c : Context) : List Byte :=
  if c.created then ((implName p c.kind).take 31).map (BitVec.setWidth 8) else []

/-- What a register of a context that is not busy reads (10_state.md R42 to R52). -/
def regValue (p : Params) (c : Context) (r : CtxReg) : Word :=
  match r with
  | .cmd => 0
  | .status => statusWord c
  | .arg0 => c.arg0
  | .arg1 => c.arg1
  | .bufAddr => c.bufAddr
  | .len => c.len
  | .info => infoWord c
  | .encCtr => c.encCtr.setWidth 32
  | .decCtr => c.decCtr.setWidth 32
  | .name i => stringWord (nameBytes p c) i
  | .reserved => 0

/-- CAP_STATUS (10_state.md R55): bit 0 VALID, bit 1 IS_INTEL, bit 2 IS_AMD, bit 8 SSE2, bit 9 AVX2, the others 0. -/
def capStatusWord (snap : Snapshot) : Word :=
  flagAt snap.valid 0 ||| flagAt snap.isIntel 1 ||| flagAt snap.isAmd 2 ||| flagAt snap.sse2 8 ||| flagAt snap.avx2 9

/-- What the capability window shows (10_state.md R55 to R58): 0 throughout block reset, the snapshot once it has ended
(70_reset_and_hazards.md R300, log 10). -/
def capWindow (s : State) : Snapshot :=
  match s.phase with
  | .running => s.snap
  | _ => Snapshot.zero

/-- What a register of the capability window reads of what the window shows (10_state.md R55 to R58). -/
def capValue (snap : Snapshot) (r : CapReg) : Word :=
  match r with
  | .capStatus => capStatusWord snap
  | .vendor i => stringWord snap.vendor.toList i
  | .brand i => stringWord snap.brand.toList i
  | .capOther i => snap.other.extractLsb' (32 * i) 32
  | .reserved => 0

end Sys2Proof.Machine
end

