-- ==== Sys2Proof/Machine/HostAccess.lean ====
section
/-! DEFINITION. The host's accesses: register reads and writes, starting a command, the busy rule, and the host's own accesses
to BUFMEM with the races the model refuses (10_state.md R42 to R54, 60_exceptions.md R266, R267, 20_memory.md R84 to R87). -/

namespace Sys2Proof.Machine

/-- The context that has accepted a CMD write of `w` (10_state.md R42, R43, R59): the operands are latched, BUSY rises, and the
command's buffer belongs to the engine until the host observes BUSY = 0 (70_reset_and_hazards.md R312). -/
def startCommand (c : Context) (w : Word) : Context :=
  { c with
    pending := some w, lArg0 := c.arg0, lArg1 := c.arg1, lAddr := c.bufAddr, lLen := c.len,
    owned := (commandSpan w c.bufAddr c.len).toList ++ c.owned }

/-- A command in flight in another context than `k` whose buffer overlaps `x` (20_memory.md R87 b). -/
def overlapsOther (s : State) (k : Nat) (x : Span) : Bool :=
  (List.range s.ctxs.length).any fun j =>
    j != k && ((s.ctxs[j]?.bind flightSpan).any fun y => y.overlaps x)

/-- A CMD write that context `k` accepts. An illegal word too is in flight from its write until it is performed and ends with
IllegalCommand (30_encoding.md R105, 60_exceptions.md R262; DEDUCED, log 21). Two commands in flight with overlapping buffers are a race, refused at the write
that makes it (20_memory.md R87 b, log 6). -/
def acceptCommand (s : State) (k : Nat) (c : Context) (w : Word) : Host.Outcome State Fault Refusal :=
  if (commandSpan w c.bufAddr c.len).any (overlapsOther s k) then .refused .overlappingCommands
  else .next { setCtx s k (startCommand c w) with reply := .none }

/-- A host access that the busy rule refuses (60_exceptions.md R266): nothing but BUSYVIOL changes. -/
def refuseBusy (s : State) (k : Nat) (c : Context) (r : Reply) : State :=
  { setCtx s k (withBusyViolation c) with reply := r }

/-- A host read of a register of context `k`. While BUSY = 1 a read other than of STATUS or a reserved offset returns 0 and
sets BUSYVIOL (60_exceptions.md R266). A STATUS read that returns BUSY = 0 ends the engine's ownership of the buffers
(20_memory.md R85, R87); it has no other effect. -/
def readRegister (s : State) (k : Nat) (c : Context) (r : CtxReg) : State :=
  match r with
  | .reserved => { s with reply := .word 0 }
  | .status =>
    if busy c then { s with reply := .word (statusWord c) }
    else { setCtx s k { c with owned := [] } with reply := .word (statusWord c) }
  | r =>
    if busy c then refuseBusy s k c (.word 0)
    else { s with reply := .word (regValue s.params c r) }

/-- A host write of a register of context `k`. A reserved offset ignores it (10_state.md R52); while BUSY = 1 every other
register ignores it and BUSYVIOL is set (60_exceptions.md R266); a read-only register ignores it (10_state.md R53). -/
def writeRegister (s : State) (k : Nat) (c : Context) (r : CtxReg) (v : Word) :
    Host.Outcome State Fault Refusal :=
  match r with
  | .reserved => .next { s with reply := .none }
  | r =>
    if busy c then .next (refuseBusy s k c .none)
    else
      match r with
      | .cmd => acceptCommand s k c v
      | .arg0 => .next { setCtx s k { c with arg0 := v } with reply := .none }
      | .arg1 => .next { setCtx s k { c with arg1 := v } with reply := .none }
      | .bufAddr => .next { setCtx s k { c with bufAddr := v } with reply := .none }
      | .len => .next { setCtx s k { c with len := v } with reply := .none }
      | _ => .next { s with reply := .none }

/-- Where a host register access goes: only a naturally aligned 32-bit access has a step (10_state.md R53), and only inside
the block's windows (log 8). -/
def regAccess (s : State) (addr width : Nat)
    (f : Window × Nat → Host.Outcome State Fault Refusal) : Host.Outcome State Fault Refusal :=
  if width ≠ 4 then .refused .accessWidth
  else if addr % 4 ≠ 0 then .refused .misalignedAccess
  else
    match locate s.params addr with
    | none => .refused .outsideBlock
    | some x => f x

/-- A host register read. -/
def hostRegRead (s : State) (addr width : Nat) : Host.Outcome State Fault Refusal :=
  regAccess s addr width fun x =>
    match x.1 with
    | .capability => .next { s with reply := .word (capValue (capWindow s) (capReg x.2)) }
    | .context k =>
      match s.ctxs[k]? with
      | none => .refused .noSuchContext
      | some c => .next (readRegister s k c (ctxReg x.2))

/-- A host register write. Every write to the capability window is ignored (10_state.md R54). -/
def hostRegWrite (s : State) (addr width : Nat) (v : Word) : Host.Outcome State Fault Refusal :=
  regAccess s addr width fun x =>
    match x.1 with
    | .capability => .next { s with reply := .none }
    | .context k =>
      match s.ctxs[k]? with
      | none => .refused .noSuchContext
      | some c => writeRegister s k c (ctxReg x.2) v

/-- A host access to `x` would race with a command not yet observed complete (20_memory.md R87 a). -/
def racesWith (s : State) (x : Span) : Bool :=
  s.ctxs.any fun c => c.owned.any fun y => y.overlaps x

/-- A host access to a range of BUFMEM: the bytes must exist (20_memory.md R71, log 7) and belong to no engine (R87 a). -/
def memAccess (s : State) (x : Span) (t : State) : Host.Outcome State Fault Refusal :=
  if bufMemSize s.params < x.start + x.len then .fault .outsideBufMem
  else if racesWith s x then .refused .bufferRace
  else .next t

/-- A host read of BUFMEM: any number of bytes, also 0, as one event, since the spec gives such an access no width and no
atomicity (DESIGN CHOICE, log 20). -/
def hostMemRead (s : State) (addr count : Nat) : Host.Outcome State Fault Refusal :=
  memAccess s ⟨addr, count⟩ { s with reply := .bytes (Memory.readBytes s.bufmem addr count) }

/-- A host write of BUFMEM: any number of bytes, also 0, as one event (DESIGN CHOICE, log 20). -/
def hostMemWrite (s : State) (addr : Nat) (bs : List Byte) : Host.Outcome State Fault Refusal :=
  memAccess s ⟨addr, bs.length⟩ { s with bufmem := Memory.writeBytes s.bufmem addr bs, reply := .none }

end Sys2Proof.Machine
end

