-- ==== Sys2Proof/Machine/Perform.lean ====
section
/-! DEFINITION. One step of the machine: performing a started command (20_memory.md R80), the stages of block reset
(70_reset_and_hazards.md R300), the events of the agenda, and what happens when the agenda is empty (R321, R322). -/

namespace Sys2Proof.Machine

/-- Context `k` performs the command it has started: its word is decoded (30_encoding.md R105) and runs, or ends with
IllegalCommand before every other check (60_exceptions.md R263). An idle context has nothing to perform (log 9). -/
def perform (s : State) (k : Nat) : Host.Outcome State Fault Refusal :=
  match s.ctxs[k]? with
  | none => .refused .noSuchContext
  | some c =>
    match c.pending with
    | none => .next s
    | some w =>
      match decode w with
      | .error _ => .next (raiseError { s with active := k } c .illegalCommand)
      | .ok i => exec i { s with active := k }

/-- Block reset is applied: the capability window reads 0 and the steps of R300 follow. -/
def beginReset (s : State) : State :=
  { s with phase := .contexts, snap := Snapshot.zero, reply := .none }

/-- The next step of block reset (70_reset_and_hazards.md R300): the contexts; the detection, which sets the whole snapshot
(40_capability.md R131); the end, at which the capability window opens and so CAP_STATUS.VALID becomes 1. BUFMEM is not touched. -/
def resetStage (s : State) : State :=
  match s.phase with
  | .running => s
  | .contexts =>
    { s with phase := .detect, ctxs := List.replicate (nCtx s.params) Context.reset, active := 0 }
  | .detect => { s with phase := .finish, snap := detect s.params }
  | .finish => { s with phase := .running }

/-- One event of the agenda. -/
def runEvent (s : State) (e : Event) : Host.Outcome State Fault Refusal :=
  match e with
  | .regRead addr width => hostRegRead s addr width
  | .regWrite addr width v => hostRegWrite s addr width v
  | .memRead addr count => hostMemRead s addr count
  | .memWrite addr bs => hostMemWrite s addr bs
  | .perform k => perform s k
  | .blockReset => .next (beginReset s)

/-- The lowest context with a command in flight. -/
def firstBusy (cs : List Context) : Option Nat := cs.findIdx? busy

/-- With no event left, the commands in flight are still performed, lowest context first (R321, log 3); then nothing more
happens (R322). -/
def drain (s : State) : Host.Outcome State Fault Refusal :=
  match firstBusy s.ctxs with
  | none => .next s
  | some k => perform s k

/-- One step. Until block reset has ended the host has no access and only the reset proceeds (R300). -/
def stepState (s : State) : Host.Outcome State Fault Refusal :=
  match s.phase with
  | .running =>
    match s.agenda with
    | [] => drain s
    | e :: es => runEvent { s with agenda := es } e
  | _ => .next (resetStage s)

/-- The state in which context 0 has started the command of `w` and performs it next (log 2). -/
def fetchState (s : State) (w : Word) : State :=
  { s with
    phase := .running,
    ctxs := s.ctxs.modify 0 (fun c => startCommand c w),
    agenda := .perform 0 :: s.agenda }

end Sys2Proof.Machine
end

