-- ==== Sys2Proof/Machine/Step.lean ====
section
/-! DEFINITION. The step function, and placing a command word where the step takes its next command from. -/

namespace Sys2Proof.Machine

/-- One step of the machine. -/
def step (s : State) : Host.Outcome State Fault Refusal := stepState s

/-- The block fetches no instructions (20_memory.md R91): a command runs once a CMD write has started it. This is `s` with the
command of the word `w` started in context 0, its operands latched, and context 0 performing it next (log 2). -/
def State.withFetchWord (s : State) (nbits w : Nat) : State :=
  fetchState s (BitVec.ofNat 32 (w % 2 ^ nbits))

end Sys2Proof.Machine
end

