-- ==== Sys2Proof/Machine/Script.lean ====
section
/-! DEFINITION. The host-script statements and pseudo-instructions of 30_encoding.md R109 and R110, as events of the agenda. -/

namespace Sys2Proof.Machine

/-- The offset of a register of a context window (10_state.md R41); a reserved register has the offset 0x24 here. -/
def ctxOffset (r : CtxReg) : Nat :=
  match r with
  | .cmd => 0x00
  | .status => 0x04
  | .arg0 => 0x08
  | .arg1 => 0x0C
  | .bufAddr => 0x10
  | .len => 0x14
  | .info => 0x18
  | .encCtr => 0x1C
  | .decCtr => 0x20
  | .name i => 0x40 + 4 * i
  | .reserved => 0x24

/-- The offset of a register of the capability window (10_state.md R54); a reserved register has the offset 0x04 here. -/
def capOffset (r : CapReg) : Nat :=
  match r with
  | .capStatus => 0x00
  | .vendor i => 0x10 + 4 * i
  | .brand i => 0x20 + 4 * i
  | .capOther i => 0x50 + 4 * i
  | .reserved => 0x04

/-- A host-script statement (30_encoding.md R109). -/
inductive Stmt where
  /-- WR reg, imm32. -/
  | wr (r : CtxReg) (v : Word)
  /-- RD reg. -/
  | rd (r : CtxReg)
  /-- RD CAP.reg. -/
  | rdCap (r : CapReg)
  /-- WAIT. -/
  | wait
  /-- The statement of a command: WR CMD, its word. -/
  | command (i : Instr)
  /-- MEM addr: bytes, as a start-state listing. -/
  | mem (addr : Nat) (bytes : List Byte)
  deriving DecidableEq, Repr

/-- The events of a statement in a script for context `k` (R109 has context 0). WAIT is the command's atomic step and the
STATUS read that returns BUSY = 0; the reads before it are left out (log 11). -/
def stmtEvents (p : Params) (k : Nat) (x : Stmt) : List Event :=
  match x with
  | .wr r v => [.regWrite (windowAddr p (.context k) (ctxOffset r)) 4 v]
  | .rd r => [.regRead (windowAddr p (.context k) (ctxOffset r)) 4]
  | .rdCap r => [.regRead (windowAddr p .capability (capOffset r)) 4]
  | .wait => [.perform k, .regRead (windowAddr p (.context k) (ctxOffset .status)) 4]
  | .command i => [.regWrite (windowAddr p (.context k) (ctxOffset .cmd)) 4 (encode i)]
  | .mem addr bs => [.memWrite addr bs]

/-- A pseudo-instruction (30_encoding.md R110). -/
inductive Pseudo where
  | createDefault
  | create (var : Nat)
  | genKey (p g : Word)
  | generateAltKey (a b : Word)
  | encrypt (addr len : Word)
  | decrypt (addr len : Word)
  | resetCounters
  | implementationKind
  | implementationName
  | check
  deriving DecidableEq, Repr

/-- The expansion of a pseudo-instruction (30_encoding.md R110). -/
def expand (x : Pseudo) : List Stmt :=
  match x with
  | .createDefault => [.command .createDefault, .wait]
  | .create var => [.command (.create var), .wait]
  | .genKey p g => [.wr .arg0 p, .wr .arg1 g, .command .genKey, .wait]
  | .generateAltKey a b => [.wr .arg0 a, .wr .arg1 b, .command .genAltKey, .wait]
  | .encrypt addr len => [.wr .bufAddr addr, .wr .len len, .command .encrypt, .wait]
  | .decrypt addr len => [.wr .bufAddr addr, .wr .len len, .command .decrypt, .wait]
  | .resetCounters => [.command .resetCounters, .wait]
  | .implementationKind => [.rd .info]
  | .implementationName => (List.range 8).map fun i => .rd (.name i)
  | .check => [.rd .status]

/-- The events of a pseudo-instruction in context `k`. -/
def pseudoEvents (p : Params) (k : Nat) (x : Pseudo) : List Event :=
  (expand x).flatMap (stmtEvents p k)

end Sys2Proof.Machine
end

