-- ==== Sys2Proof/Machine/Observe.lean ====
section
/-! DEFINITION. The end of a run and its observation (70_reset_and_hazards.md R322). -/

namespace Sys2Proof.Machine

/-- The events that are accesses of the host; performing a command and block reset are none. -/
def isHostAccess (e : Event) : Bool :=
  match e with
  | .regRead _ _ => true
  | .regWrite _ _ _ => true
  | .memRead _ _ => true
  | .memWrite _ _ => true
  | .perform _ => false
  | .blockReset => false

/-- The host has no further access to make. -/
def hostDone (s : State) : Bool := s.agenda.all fun e => !isHostAccess e

/-- A state in which a run can end (R322): the host has no further access to make and every context has BUSY = 0. A block
reset in progress is not the end, and an event that is no access of the host does not delay it (log 19). -/
def atEnd (s : State) : Bool :=
  s.phase == .running && hostDone s && s.ctxs.all fun c => !busy c

/-- The first state of the run from `s` in which the run can end, if at most `n` steps reach it. A run that a refusal or a
fault stops has no end state (R322). -/
def runToEnd (n : Nat) (s : State) : Option State :=
  if atEnd s then some s
  else
    match n with
    | 0 => none
    | n + 1 =>
      match step s with
      | .next t => runToEnd n t
      | .fault _ => none
      | .refused _ => none

/-- The offsets of the registers of a context window (10_state.md R41). -/
def contextOffsets : List Nat :=
  [0x00, 0x04, 0x08, 0x0C, 0x10, 0x14, 0x18, 0x1C, 0x20, 0x40, 0x44, 0x48, 0x4C, 0x50, 0x54, 0x58, 0x5C]

/-- The offsets of the registers of the capability window (10_state.md R54). -/
def capabilityOffsets : List Nat :=
  [0x00, 0x10, 0x14, 0x18, 0x20, 0x24, 0x28, 0x2C, 0x30, 0x34, 0x38, 0x3C, 0x40, 0x44, 0x48, 0x4C, 0x50, 0x54, 0x58, 0x5C]

/-- The state of a context that persists between commands, as 10_state.md R32 lists it. -/
structure ContextView where
  created : Bool
  kind : Kind
  useAlt : Bool
  encCtr : Counter
  decCtr : Counter
  /-- BASE with its wrap windows (R38, R40). -/
  base : Key
  /-- ALT with its wrap windows (R39, R40). -/
  alt : Key
  /-- The status fields (R43). -/
  busy : Bool
  code : ResultCode
  errSticky : Bool
  busyViol : Bool
  /-- The operand registers (R30). -/
  arg0 : Word
  arg1 : Word
  bufAddr : Word
  len : Word
  deriving DecidableEq, Repr

/-- What is observed at the end of a run (R322): the final BUFMEM, the registers of every window with their offsets, and the
states of the contexts. -/
structure Observation where
  bufmem : Memory
  capability : List (Nat × Word)
  windows : List (List (Nat × Word))
  contexts : List ContextView
  deriving DecidableEq, Repr

/-- The state R32 gives a context. -/
def contextView (c : Context) : ContextView where
  created := c.created
  kind := c.kind
  useAlt := c.useAlt
  encCtr := c.encCtr
  decCtr := c.decCtr
  base := c.base
  alt := c.alt
  busy := busy c
  code := c.code
  errSticky := c.errSticky
  busyViol := c.busyViol
  arg0 := c.arg0
  arg1 := c.arg1
  bufAddr := c.bufAddr
  len := c.len

/-- The registers of a context's window, each with its offset (10_state.md R41). -/
def windowRegisters (p : Params) (c : Context) : List (Nat × Word) :=
  contextOffsets.map fun off => (off, regValue p c (ctxReg off))

/-- The observation of a state (R322). -/
def observation (s : State) : Observation where
  bufmem := s.bufmem
  capability := capabilityOffsets.map fun off => (off, capValue (capWindow s) (capReg off))
  windows := s.ctxs.map (windowRegisters s.params)
  contexts := s.ctxs.map contextView

/-- The observation of the run from `s` at its end, if at most `n` steps reach it. -/
def observeRun (n : Nat) (s : State) : Option Observation := (runToEnd n s).map observation

end Sys2Proof.Machine
end

