-- ==== Sys2Proof/Safety.lean ====
section
/-! DEFINITION. The terms the claims use: the invariants of the block (10_state.md R61), a run without error, the end of a run. -/

namespace Sys2Proof.Machine

/-- Every wrap window equals the prefix of its half (10_state.md R40, R61 b). -/
abbrev Key.wrapped (kind : Kind) (k : Key) : Prop :=
  k.wrap1 = wrapOf kind k.k1 ∧ k.wrap2 = wrapOf kind k.k2

/-- A context without an engine has every engine state at its reset value (10_state.md R61 a). -/
abbrev Context.emptyEngine (c : Context) : Prop :=
  c.kind = .standard ∧ c.useAlt = false ∧ c.encCtr = 0 ∧ c.decCtr = 0 ∧ c.base = Key.zero ∧ c.alt = Key.zero

/-- The invariants of 10_state.md R61 for one context, and that the buffer of the command in flight belongs to the engine. -/
structure Context.Inv (c : Context) : Prop where
  empty : c.created = false → c.emptyEngine
  baseWrapped : c.base.wrapped c.kind
  altWrapped : c.alt.wrapped c.kind
  sticky : c.errSticky = false → c.code = .ok
  owns : ∀ x, flightSpan c = some x → x ∈ c.owned

/-- The snapshot is the detector's from the detection of block reset on, and 0 before it (40_capability.md R131). -/
abbrev State.snapshotOk (s : State) : Prop :=
  match s.phase with
  | .running => s.snap = detect s.params
  | .contexts => s.snap = Snapshot.zero
  | .detect => s.snap = Snapshot.zero
  | .finish => s.snap = detect s.params

/-- No two contexts have commands in flight whose buffers overlap (20_memory.md R87 b). -/
def State.flightsDisjoint (s : State) : Prop :=
  ∀ (j k : Nat) (c d : Context) (x y : Span), j ≠ k → s.ctxs[j]? = some c → s.ctxs[k]? = some d →
    flightSpan c = some x → flightSpan d = some y → x.overlaps y = false

/-- The invariant of the block. -/
structure State.Inv (s : State) : Prop where
  names : s.params.wf
  memory : s.bufmem.wf
  inRange : ∀ x ∈ s.bufmem, x.1 < bufMemSize s.params
  count : s.ctxs.length = nCtx s.params
  active : s.active < nCtx s.params
  contexts : ∀ c ∈ s.ctxs, c.Inv
  snapshot : s.snapshotOk

/-- The fields of a context that no command writes: the operand registers (10_state.md R30), the latches, BUSYVIOL,
ERR_STICKY before the command's end, and the buffers the engine owns. -/
structure Context.SameRegisters (c d : Context) : Prop where
  arg0 : d.arg0 = c.arg0
  arg1 : d.arg1 = c.arg1
  bufAddr : d.bufAddr = c.bufAddr
  len : d.len = c.len
  lArg0 : d.lArg0 = c.lArg0
  lArg1 : d.lArg1 = c.lArg1
  lAddr : d.lAddr = c.lAddr
  lLen : d.lLen = c.lLen
  busyViol : d.busyViol = c.busyViol
  errSticky : d.errSticky = c.errSticky
  owned : d.owned = c.owned

/-- The engine state of a context (10_state.md R32), with CODE and ERR_STICKY: what no host access writes. -/
structure Context.SameEngine (c d : Context) : Prop where
  created : d.created = c.created
  kind : d.kind = c.kind
  useAlt : d.useAlt = c.useAlt
  encCtr : d.encCtr = c.encCtr
  decCtr : d.decCtr = c.decCtr
  base : d.base = c.base
  alt : d.alt = c.alt
  code : d.code = c.code
  errSticky : d.errSticky = c.errSticky

/-- The illegal command words, by the arithmetic of the fields (30_encoding.md R100, R106): RSV not 0, OPC 0x00 or 0x08 to 0xFF,
or VAR not 0 with OPC not CREATE's. -/
abbrev IllegalWord (w : Word) : Prop :=
  w.toNat / 0x1000 ≠ 0 ∨ w.toNat % 0x100 = 0 ∨ 8 ≤ w.toNat % 0x100 ∨
    (w.toNat % 0x100 ≠ 2 ∧ w.toNat / 0x100 % 0x10 ≠ 0)

/-- The error a command word ends with in a context, in the order of 60_exceptions.md R263; `ok` where no check fails. -/
def firstError (p : Params) (snap : Snapshot) (c : Context) (w : Word) : ResultCode :=
  let opc := w.toNat % 0x100
  let var := w.toNat / 0x100 % 0x10
  let stream := opc = 5 ∨ opc = 6
  if IllegalWord w then .illegalCommand
  else if 3 ≤ opc ∧ c.created = false then .notCreated
  else if opc = 2 ∧ 3 ≤ var then .unknownVariant
  else if opc = 2 ∧ ((var = 1 ∧ snap.sse2 = false) ∨ (var = 2 ∧ snap.avx2 = false)) then .unsupportedVariant
  else if stream ∧ (c.lAddr = 0 ∨ c.lLen.toInt ≤ 0) then .invalidArgument
  else if stream ∧ p.bufMemLast.toNat + 1 < c.lAddr.toNat + c.lLen.toNat then .accessFault
  else .ok

/-- No command of any context has ended with an error and no access was refused for BUSY since reset. -/
def State.clean (s : State) : Prop :=
  ∀ c ∈ s.ctxs, c.errSticky = false ∧ c.busyViol = false

/-- The number of commands in flight. -/
def State.inFlight (s : State) : Nat := s.ctxs.countP busy

/-- A state in which a run can end (70_reset_and_hazards.md R322): no host access left and every context has BUSY = 0. The end
of the run is the first such state (`runToEnd`). -/
def State.ended (s : State) : Prop := atEnd s = true

end Sys2Proof.Machine
end

