-- ==== Sys2Proof/Certificates/Slice0/Obligations.lean ====
section
/-! DEFINITION. What is claimed of the block: statements, no proofs. -/

open Sys2Proof Sys2Proof.Machine

/-! ### Encoding and decoding (30_encoding.md) -/

/-- Decoding the word of a well-formed command gives the command back, by `decode` and by the table's numbering of bits
(R104, R105). -/
def Obligations.DecodeOfEncodeIsTheCommand : Prop :=
  ∀ i : Instr, WellFormed i → decode (encode i) = .ok i ∧ decodeTableWord 32 (encode i).toNat = some i

/-- A word that decodes is the encoding of what it decodes to: every command has one word, and no bit of it is dropped. -/
def Obligations.DecodedWordsAreTheirEncodings : Prop :=
  ∀ (w : Word) (i : Instr), decode w = .ok i → WellFormed i ∧ encode i = w

/-- Decoding refuses exactly the illegal words of R106. -/
def Obligations.DecodeRefusesExactlyIllegalWords : Prop :=
  ∀ w : Word, (∃ e, decode w = .error e) ↔ IllegalWord w

/-- A sanity check: words written out from the table of R104, and illegal words of V14. -/
def Obligations.TableWordsDecode : Prop :=
  decode 0x00000001 = .ok .createDefault ∧ decode 0x00000202 = .ok (.create 2) ∧
  decode 0x00000F02 = .ok (.create 15) ∧ decode 0x00000003 = .ok .genKey ∧ decode 0x00000004 = .ok .genAltKey ∧
  decode 0x00000005 = .ok .encrypt ∧ decode 0x00000006 = .ok .decrypt ∧ decode 0x00000007 = .ok .resetCounters ∧
  decode 0x00000105 = .error .variantField ∧ decode 0x80000005 = .error .reservedBits ∧
  decode 0x00000008 = .error .unknownOpcode

/-- An illegal word in flight ends with IllegalCommand and changes nothing but CODE and ERR_STICKY, and BUSY, which falls (R106,
R262). That an illegal word is in flight like a command is the model's DEDUCED reading (log 21).
The agenda and `active` are the model's own. -/
def Obligations.IllegalWordEndsWithIllegalCommand : Prop :=
  ∀ (s : State) (k : Nat) (rest : List Event) (c : Context) (w : Word),
    s.phase = .running → s.agenda = .perform k :: rest → s.ctxs[k]? = some c → c.pending = some w →
    IllegalWord w →
    step s = .next
      { s with
        agenda := rest, active := k,
        ctxs := s.ctxs.set k { c with pending := none, code := .illegalCommand, errSticky := true } } ∧
    resultNumber .illegalCommand = 4

/-! ### The step -/

/-- When a context performs a started command whose word decodes, the step is `exec` of the decoded command in that context. -/
def Obligations.StepRunsTheDecodedCommand : Prop :=
  ∀ (s : State) (k : Nat) (rest : List Event) (c : Context) (w : Word) (i : Instr),
    s.phase = .running → s.agenda = .perform k :: rest → s.ctxs[k]? = some c → c.pending = some w →
    decode w = .ok i → step s = exec i { s with agenda := rest, active := k }

/-- A word placed with `withFetchWord` runs in context 0 at the very next step, its operands latched (log 2: the model's choice). -/
def Obligations.FetchedWordRunsNext : Prop :=
  ∀ (s : State) (c : Context) (cs : List Context) (w : Nat) (i : Instr),
    s.ctxs = c :: cs → w < 2 ^ 32 → decodeTableWord 32 w = some i →
    step (s.withFetchWord 32 w) =
      exec i { s with phase := .running, active := 0, ctxs := startCommand c (BitVec.ofNat 32 w) :: cs }

/-- With no access of the host left the run reaches its end (R321, R322), its first state with no access left and every BUSY 0.
A block reset that is left takes four steps and drops the commands in flight (log 10, which the bound rests on). With an empty
agenda the commands in flight are performed, one a step (the order is the model's choice, log 3). Where no command is in flight
the run has ended already, whatever block reset or step of an idle context is left (log 19). -/
def Obligations.EmptyAgendaDrainsToTheEnd : Prop :=
  ∀ s : State, s.phase = .running → hostDone s = true → (∀ k, .perform k ∈ s.agenda → k < s.ctxs.length) →
    ∃ t, runToEnd (4 * s.agenda.length + s.inFlight) s = some t ∧ t.ended ∧
      (s.agenda = [] → Host.Core.run Sys2Proof.core s.inFlight s = .next t) ∧ (s.inFlight = 0 → t = s)

/-- Every command of a context that exists ends in a next state with BUSY = 0: no command refuses or faults. -/
def Obligations.EveryCommandEnds : Prop :=
  ∀ (i : Instr) (s : State) (c : Context), s.ctxs[s.active]? = some c →
    ∃ t d, exec i s = .next t ∧ t.ctxs[s.active]? = some d ∧ d.pending = none

/-- A command of a context number that does not exist is refused by name (R277; log 9, the model's choice). -/
def Obligations.MissingContextIsRefused : Prop :=
  ∀ (i : Instr) (s : State), s.ctxs.length ≤ s.active → exec i s = .refused .noSuchContext

/-- What a command leaves alone: every other context, the snapshot, the parameters and the model's own fields (R277); the
operand registers, the latches and BUSYVIOL of its own context (R30, R59); BUFMEM, unless it encrypts or decrypts, and then
every byte outside `[L_ADDR, L_ADDR + L_LEN)` (R71, R79). -/
def Obligations.CommandFrame : Prop :=
  ∀ (i : Instr) (s t : State) (c d : Context),
    exec i s = .next t → s.ctxs[s.active]? = some c → t.ctxs[s.active]? = some d →
    (∀ j, j ≠ s.active → t.ctxs[j]? = s.ctxs[j]?) ∧ t.ctxs.length = s.ctxs.length ∧
    t.snap = s.snap ∧ t.params = s.params ∧ t.phase = s.phase ∧ t.agenda = s.agenda ∧ t.active = s.active ∧
    t.reply = s.reply ∧
    d.arg0 = c.arg0 ∧ d.arg1 = c.arg1 ∧ d.bufAddr = c.bufAddr ∧ d.len = c.len ∧
    d.lArg0 = c.lArg0 ∧ d.lArg1 = c.lArg1 ∧ d.lAddr = c.lAddr ∧ d.lLen = c.lLen ∧
    d.busyViol = c.busyViol ∧ d.owned = c.owned ∧
    (i ≠ .encrypt → i ≠ .decrypt → t.bufmem = s.bufmem) ∧
    (i = .encrypt ∨ i = .decrypt → ∀ a, a < bufferAddr c ∨ bufferAddr c + bufferCount c ≤ a →
      Memory.read t.bufmem a = Memory.read s.bufmem a)

/-! ### Key generation (41_key_generation.md) -/

/-- KEYGEN follows the recurrence of R150: each byte is written before the update, and only byte 0 of a seed changes. -/
def Obligations.KeygenFollowsTheRecurrence : Prop :=
  ∀ (p g : Word),
    (keygen1 p).toList[0]? = some (byteAt p 0) ∧ (keygen2 g).toList[0]? = some (byteAt g 0) ∧
    (∀ (i : Nat) (b : Byte), i < 255 → (keygen1 p).toList[i]? = some b →
      (keygen1 p).toList[i + 1]? = some ((byteAt p 1 + b * byteAt p 2) * b + byteAt p 3)) ∧
    (∀ (i : Nat) (b : Byte), i < 255 → (keygen2 g).toList[i]? = some b →
      (keygen2 g).toList[i + 1]? = some ((byteAt g 1 - b * byteAt g 2) * b + byteAt g 3))

/-- ALTDERIVE, byte by byte (R152). -/
def Obligations.AltDeriveBytes : Prop :=
  ∀ (kind : Kind) (base : Key) (a b : Word) (i : Nat), i < 256 →
    let x := ((a + b) ^^^ 0x00004321) ^^^ a
    let y := x * x
    (altKey kind base a b).k1.toList[i]? = base.k1.toList[i]?.map (· ^^^ x.extractLsb' (8 * (i % 4)) 8) ∧
    (altKey kind base a b).k2.toList[i]? = base.k2.toList[i]?.map (· ^^^ y.extractLsb' (8 * (i % 4)) 8)

/-- GEN_KEY in a created context (R153): the base key from ARG0 and ARG1 with its wrap windows, CODE OK, and nothing else. -/
def Obligations.GenKeyWritesTheBaseKey : Prop :=
  ∀ (s : State) (c : Context), s.ctxs[s.active]? = some c → c.created = true →
    exec .genKey s = .next
      { s with
        ctxs := s.ctxs.set s.active
          { c with
            base :=
              { k1 := keygen1 c.lArg0, k2 := keygen2 c.lArg1,
                wrap1 := (keygen1 c.lArg0).toList.take (vectorWidth c.kind - 1),
                wrap2 := (keygen2 c.lArg1).toList.take (vectorWidth c.kind - 1) },
            code := .ok, pending := none } }

/-- GEN_ALT_KEY in a created context (R156): the alternate key with its wrap windows, USE_ALT 1, ENC_CTR 0, CODE OK, and
nothing else; DEC_CTR is not changed. -/
def Obligations.GenAltKeyWritesTheAlternateKey : Prop :=
  ∀ (s : State) (c : Context), s.ctxs[s.active]? = some c → c.created = true →
    exec .genAltKey s = .next
      { s with
        ctxs := s.ctxs.set s.active
          { c with alt := altKey c.kind c.base c.lArg0 c.lArg1, useAlt := true, encCtr := 0, code := .ok, pending := none } }

/-- GEN_ALT_KEY again with the same operands changes nothing more (R156, S5 of 95_test_vectors.md). -/
def Obligations.GenAltKeyAgainChangesNothing : Prop :=
  ∀ (s t : State) (c : Context), s.ctxs[s.active]? = some c → c.created = true →
    exec .genAltKey s = .next t → exec .genAltKey t = .next t

/-! ### The stream transform (42_stream_transform.md) -/

/-- The closed form of the byte pipeline (R180). -/
def Obligations.CipherByteClosedForm : Prop :=
  ∀ (b : Byte) (c : Counter) (k : Key),
    cipherByte b c k = swap4 b ^^^ 0xBA ^^^ keyByte k.k1 (lo8 c) ^^^ keyByte k.k2 (hi8 c)

/-- INV_BYTE inverts the byte pipeline on both sides (R195). -/
def Obligations.InvByteInvertsCipherByte : Prop :=
  ∀ (b : Byte) (c : Counter) (k : Key),
    invByte (cipherByte b c k) c k = b ∧ cipherByte (invByte b c k) c k = b

/-- The pipeline applied twice leaves the residue of R195, which is the byte itself exactly when the two nibbles of the key
byte differ by 1 in exclusive-or. -/
def Obligations.PipelineTwiceLeavesResidue : Prop :=
  ∀ (b : Byte) (c : Counter) (k : Key),
    let x := keyByte k.k1 (lo8 c) ^^^ keyByte k.k2 (hi8 c)
    cipherByte (cipherByte b c k) c k = b ^^^ 0x11 ^^^ x ^^^ swap4 x ∧
    (cipherByte (cipherByte b c k) c k = b ↔ (x >>> 4) ^^^ (x &&& 0x0F) = 0x01)

/-- TRANSFORM: byte `i` is transformed with counter c0 + i, and the counter ends at c0 + n, modulo 65536 (R182). -/
def Obligations.TransformIsBytewise : Prop :=
  ∀ (k : Key) (c : Counter) (buf : List Byte),
    (transform k c buf).1.length = buf.length ∧
    (transform k c buf).2 = c + BitVec.ofNat 16 buf.length ∧
    ∀ (i : Nat) (b : Byte), buf[i]? = some b →
      (transform k c buf).1[i]? = some (cipherByte b (c + BitVec.ofNat 16 i) k)

/-- The nibble rotate in 8-bit and in 16-bit lanes is swap4 of each byte (R192). -/
def Obligations.NibbleRotateLanesAgree : Prop :=
  ∀ hi lo : Byte, vrot lo = swap4 lo ∧ vrotLane16 (hi ++ lo) = swap4 hi ++ swap4 lo

/-- The vector block form computes the reference transform in both widths, for every key whose wrap windows equal the prefixes
of its halves, every counter and every buffer (R193); so the engine of every variant computes the reference transform (R188). -/
def Obligations.VectorFormEqualsReference : Prop :=
  ∀ (kind : Kind) (k : Key) (c : Counter) (buf : List Byte), k.wrapped kind →
    (kind ≠ .standard → vtransform k (vectorWidth kind) c buf = transform k c buf) ∧
    engineTransform kind k c buf = transform k c buf

/-- ENCRYPT of a legal buffer in a created context of any variant (R184, R75): each byte of the buffer is transformed under the
base key, in every state of USE_ALT, with its own counter value; ENC_CTR advances by the length; nothing else changes. -/
def Obligations.EncryptTransformsTheBuffer : Prop :=
  ∀ (s : State) (c : Context), s.Inv → s.ctxs[s.active]? = some c → c.created = true →
    c.lAddr ≠ 0 → 0 < c.lLen.toInt → bufferAddr c + bufferCount c ≤ bufMemSize s.params →
    ∃ m, exec .encrypt s = .next
        { s with
          ctxs := s.ctxs.set s.active
            { c with encCtr := c.encCtr + BitVec.ofNat 16 (bufferCount c), code := .ok, pending := none },
          bufmem := m } ∧
      (∀ i, i < bufferCount c →
        Memory.read m (bufferAddr c + i) =
          cipherByte (Memory.read s.bufmem (bufferAddr c + i)) (c.encCtr + BitVec.ofNat 16 i) c.base) ∧
      (∀ a, a < bufferAddr c ∨ bufferAddr c + bufferCount c ≤ a → Memory.read m a = Memory.read s.bufmem a)

/-- DECRYPT of a legal buffer in a created context of any variant (R185, R183): the same transform, under the alternate key if
and only if USE_ALT is set; DEC_CTR advances by the length; nothing else changes. -/
def Obligations.DecryptTransformsTheBuffer : Prop :=
  ∀ (s : State) (c : Context), s.Inv → s.ctxs[s.active]? = some c → c.created = true →
    c.lAddr ≠ 0 → 0 < c.lLen.toInt → bufferAddr c + bufferCount c ≤ bufMemSize s.params →
    ∃ m, exec .decrypt s = .next
        { s with
          ctxs := s.ctxs.set s.active
            { c with decCtr := c.decCtr + BitVec.ofNat 16 (bufferCount c), code := .ok, pending := none },
          bufmem := m } ∧
      (∀ i, i < bufferCount c →
        Memory.read m (bufferAddr c + i) =
          cipherByte (Memory.read s.bufmem (bufferAddr c + i)) (c.decCtr + BitVec.ofNat 16 i)
            (if c.useAlt then c.alt else c.base)) ∧
      (∀ a, a < bufferAddr c ∨ bufferAddr c + bufferCount c ≤ a → Memory.read m a = Memory.read s.bufmem a)

/-- CHECK_BUFFER in a created context (R186): a null buffer or a length that is not positive gives InvalidArgument; otherwise
a range that ends beyond BUFMEM_SIZE, added without wrap-around, gives AccessFault; nothing else changes. -/
def Obligations.BufferChecksStopTheCommand : Prop :=
  ∀ (s : State) (c : Context) (i : Instr), i = .encrypt ∨ i = .decrypt →
    s.ctxs[s.active]? = some c → c.created = true →
    ((c.lAddr = 0 ∨ c.lLen.toInt ≤ 0) →
      exec i s = .next
        { s with
          ctxs := s.ctxs.set s.active { c with code := .invalidArgument, errSticky := true, pending := none } }) ∧
    (c.lAddr ≠ 0 → 0 < c.lLen.toInt → (bufMemSize s.params : Int) < c.lAddr.toNat + c.lLen.toInt →
      exec i s = .next
        { s with
          ctxs := s.ctxs.set s.active { c with code := .accessFault, errSticky := true, pending := none } })

/-- RESET_COUNTERS in a created context (R187): both counters 0, CODE OK, and nothing else. -/
def Obligations.ResetCountersClearsBoth : Prop :=
  ∀ (s : State) (c : Context), s.ctxs[s.active]? = some c → c.created = true →
    exec .resetCounters s = .next
      { s with ctxs := s.ctxs.set s.active { c with encCtr := 0, decCtr := 0, code := .ok, pending := none } }

/-- Stream continuity (R196): a command on n1 bytes and one on the next n2 bytes leave the same BUFMEM and counters as one on
n1 + n2 bytes, for ENCRYPT and for DECRYPT. -/
def Obligations.StreamContinuity : Prop :=
  ∀ (i : Instr) (s : State) (c : Context) (a n1 n2 : Nat), i = .encrypt ∨ i = .decrypt →
    s.Inv → s.ctxs[s.active]? = some c → c.created = true →
    0 < a → 0 < n1 → 0 < n2 → n1 + n2 < 2 ^ 31 → a + n1 + n2 ≤ bufMemSize s.params →
    ∃ (u v t : State) (d e f : Context),
      exec i (setCtx s s.active { c with lAddr := BitVec.ofNat 32 a, lLen := BitVec.ofNat 32 n1 }) = .next u ∧
      u.ctxs[s.active]? = some d ∧
      exec i (setCtx u s.active { d with lAddr := BitVec.ofNat 32 (a + n1), lLen := BitVec.ofNat 32 n2 }) = .next v ∧
      exec i (setCtx s s.active { c with lAddr := BitVec.ofNat 32 a, lLen := BitVec.ofNat 32 (n1 + n2) }) = .next t ∧
      v.ctxs[s.active]? = some e ∧ t.ctxs[s.active]? = some f ∧
      v.bufmem = t.bufmem ∧ e.encCtr = f.encCtr ∧ e.decCtr = f.decCtr

/-! ### Selection (43_selection.md) -/

/-- SUPPORTED (R230); BEST is supported, and no supported variant is wider (R231). -/
def Obligations.BestIsTheWidestSupported : Prop :=
  ∀ snap : Snapshot,
    supported snap .standard = true ∧ supported snap .vector128 = snap.sse2 ∧ supported snap .vector256 = snap.avx2 ∧
    supported snap (best snap) = true ∧
    ∀ kind, supported snap kind = true → vectorWidth kind ≤ vectorWidth (best snap)

/-- CREATE_DEFAULT in any context (R232, R233): a fresh engine of the best supported variant, keyed with the default seeds, its
wrap windows filled, the alternate key and its wrap windows zero, and nothing else changed but CODE. -/
def Obligations.CreateDefaultConstructsTheBest : Prop :=
  ∀ (s : State) (c : Context), s.ctxs[s.active]? = some c →
    exec .createDefault s = .next
      { s with
        ctxs := s.ctxs.set s.active
          { c with
            created := true, kind := best s.snap, useAlt := false, encCtr := 0, decCtr := 0,
            base :=
              { k1 := keygen1 s.params.defaultP, k2 := keygen2 s.params.defaultG,
                wrap1 := (keygen1 s.params.defaultP).toList.take (vectorWidth (best s.snap) - 1),
                wrap2 := (keygen2 s.params.defaultG).toList.take (vectorWidth (best s.snap) - 1) },
            alt :=
              { k1 := Bytes.zero 256, k2 := Bytes.zero 256,
                wrap1 := List.replicate (vectorWidth (best s.snap) - 1) 0,
                wrap2 := List.replicate (vectorWidth (best s.snap) - 1) 0 },
            code := .ok, pending := none } }

/-- CREATE of a supported variant in any context (R232, R234): the engine of exactly that variant. -/
def Obligations.CreateConstructsTheVariant : Prop :=
  ∀ (s : State) (c : Context) (kind : Kind), s.ctxs[s.active]? = some c → supported s.snap kind = true →
    exec (.create (kindCode kind)) s = .next
      { s with
        ctxs := s.ctxs.set s.active
          { c with
            created := true, kind := kind, useAlt := false, encCtr := 0, decCtr := 0,
            base :=
              { k1 := keygen1 s.params.defaultP, k2 := keygen2 s.params.defaultG,
                wrap1 := (keygen1 s.params.defaultP).toList.take (vectorWidth kind - 1),
                wrap2 := (keygen2 s.params.defaultG).toList.take (vectorWidth kind - 1) },
            alt :=
              { k1 := Bytes.zero 256, k2 := Bytes.zero 256,
                wrap1 := List.replicate (vectorWidth kind - 1) 0,
                wrap2 := List.replicate (vectorWidth kind - 1) 0 },
            code := .ok, pending := none } }

/-- A failing CREATE leaves the context in state NONE with every engine state at its reset value, with UnknownVariant for a
code of 3 or more and UnsupportedVariant for a variant the CPU lacks, never another variant; the next engine command, which
is any command with opcode 0x03 to 0x07, ends with NotCreated (R234, R235; a code above 15 has no word, log 16). -/
def Obligations.FailedCreateLeavesNoEngine : Prop :=
  ∀ (s : State) (c : Context) (var : Nat) (e : ResultCode), s.ctxs[s.active]? = some c →
    (3 ≤ var ∧ e = .unknownVariant) ∨
      (e = .unsupportedVariant ∧ ((var = 1 ∧ s.snap.sse2 = false) ∨ (var = 2 ∧ s.snap.avx2 = false))) →
    ∃ t d,
      exec (.create var) s = .next t ∧ t = { s with ctxs := s.ctxs.set s.active d } ∧
      d = { c with
            created := false, kind := .standard, useAlt := false, encCtr := 0, decCtr := 0,
            base := Key.zero, alt := Key.zero, code := e, errSticky := true, pending := none } ∧
      ∀ i : Instr, 3 ≤ (opcField (encode i)).toNat → (∀ v, i ≠ .create v) →
        ∃ u f, exec i t = .next u ∧ u.ctxs[s.active]? = some f ∧ f.code = .notCreated

/-! ### Errors (60_exceptions.md) -/

/-- A command with opcode 0x03 to 0x07 in a context without an engine ends with NotCreated and changes nothing else (R261). -/
def Obligations.EngineCommandsNeedAnEngine : Prop :=
  ∀ (s : State) (c : Context) (i : Instr), s.ctxs[s.active]? = some c → c.created = false →
    3 ≤ (opcField (encode i)).toNat → (∀ var, i ≠ .create var) →
    exec i s = .next
      { s with ctxs := s.ctxs.set s.active { c with code := .notCreated, errSticky := true, pending := none } } ∧
    resultNumber .notCreated = 5

/-- Performing any started command reports the first error of R263's order, or OK; BUSY falls, and ERR_STICKY is set exactly by
an error. An illegal word is in flight like a command (log 21, the model's DEDUCED reading). -/
def Obligations.FirstErrorIsReported : Prop :=
  ∀ (s : State) (k : Nat) (rest : List Event) (c : Context) (w : Word),
    s.phase = .running → s.agenda = .perform k :: rest → s.ctxs[k]? = some c → c.pending = some w →
    ∃ t d, step s = .next t ∧ t.ctxs[k]? = some d ∧ d.pending = none ∧
      d.code = firstError s.params s.snap c w ∧
      d.errSticky = (c.errSticky || decide (firstError s.params s.snap c w ≠ .ok))

/-- ERR_STICKY and BUSYVIOL are cleared by block reset only: no other step clears them (R43, R262, R302). -/
def Obligations.StickyBitsFallOnlyInReset : Prop :=
  ∀ (s t : State) (k : Nat) (c : Context), s.phase ≠ .contexts → step s = .next t → s.ctxs[k]? = some c →
    ∃ d, t.ctxs[k]? = some d ∧ (c.errSticky = true → d.errSticky = true) ∧
      (c.busyViol = true → d.busyViol = true)

/-- While BUSY = 1 (R266): a write to any register but a reserved offset changes nothing but BUSYVIOL, a read of any register
but STATUS or a reserved offset returns 0 and changes nothing but BUSYVIOL, and a STATUS read returns STATUS and changes
nothing. The command in flight stays as it is. That the busy rule goes before R53, which ignores a write to a read-only
register, and R42, which gives a read of CMD no effect, is read from R53's third sentence (log 17, the model's DEDUCED reading). -/
def Obligations.BusyAccessesAreRecorded : Prop :=
  ∀ (s : State) (k off : Nat) (rest : List Event) (c : Context) (v : Word),
    s.phase = .running → s.ctxs[k]? = some c → k < nCtx s.params → off < 0x100 →
    (s.params.blockBase + 0x100 * (k + 1) + off) % 4 = 0 → c.pending ≠ none →
    (ctxReg off ≠ .reserved →
      step { s with agenda := .regWrite (s.params.blockBase + 0x100 * (k + 1) + off) 4 v :: rest } = .next
        { s with agenda := rest, ctxs := s.ctxs.set k { c with busyViol := true }, reply := .none }) ∧
    (ctxReg off ≠ .reserved → ctxReg off ≠ .status →
      step { s with agenda := .regRead (s.params.blockBase + 0x100 * (k + 1) + off) 4 :: rest } = .next
        { s with agenda := rest, ctxs := s.ctxs.set k { c with busyViol := true }, reply := .word 0 }) ∧
    (ctxReg off = .status →
      step { s with agenda := .regRead (s.params.blockBase + 0x100 * (k + 1) + off) 4 :: rest } = .next
        { s with agenda := rest, reply := .word (statusWord c) })

/-! ### Registers (10_state.md) -/

/-- The fields of STATUS (R43). -/
def Obligations.StatusFields : Prop :=
  ∀ c : Context,
    (statusWord c).getLsbD 0 = c.pending.isSome ∧ (statusWord c).extractLsb' 1 3 = 0 ∧
    ((statusWord c).extractLsb' 4 4).toNat = resultNumber c.code ∧
    (statusWord c).getLsbD 8 = c.errSticky ∧ (statusWord c).getLsbD 9 = c.busyViol ∧
    (statusWord c).extractLsb' 10 22 = 0

/-- The fields of INFO, and its reset value (R48). -/
def Obligations.InfoFields : Prop :=
  ∀ c : Context,
    ((infoWord c).extractLsb' 0 2).toNat = (if c.created then kindCode c.kind else 0) ∧
    (infoWord c).extractLsb' 2 2 = 0 ∧ (infoWord c).getLsbD 4 = c.created ∧ (infoWord c).getLsbD 5 = c.useAlt ∧
    (infoWord c).extractLsb' 6 2 = 0 ∧
    ((infoWord c).extractLsb' 8 8).toNat = (if c.created then vectorWidth c.kind else 0) ∧
    (infoWord c).extractLsb' 16 16 = 0 ∧ infoWord Context.reset = 0

/-- An operand register of a context that is not busy reads back what the host wrote, and the write changes nothing else
(R44 to R47, R81). -/
def Obligations.OperandRegistersReadBack : Prop :=
  ∀ (s : State) (k off : Nat) (rest : List Event) (c : Context) (v : Word),
    s.phase = .running → s.ctxs[k]? = some c → k < nCtx s.params → c.pending = none →
    off = 0x08 ∨ off = 0x0C ∨ off = 0x10 ∨ off = 0x14 →
    (s.params.blockBase + 0x100 * (k + 1) + off) % 4 = 0 →
    ∃ d, Host.Core.run Sys2Proof.core 2
        { s with
          agenda := .regWrite (s.params.blockBase + 0x100 * (k + 1) + off) 4 v ::
            .regRead (s.params.blockBase + 0x100 * (k + 1) + off) 4 :: rest } =
      .next { s with agenda := rest, ctxs := s.ctxs.set k d, reply := .word v } ∧
      (off = 0x08 → d = { c with arg0 := v }) ∧ (off = 0x0C → d = { c with arg1 := v }) ∧
      (off = 0x10 → d = { c with bufAddr := v }) ∧ (off = 0x14 → d = { c with len := v })

/-- A CMD write accepted by a context that is not busy starts the command and latches the operand registers (R42, R59); the
buffer of an ENCRYPT or DECRYPT belongs to the engine from then on (R312;
log 5 for which bytes). An illegal word starts like a command (log 21, the model's DEDUCED reading). -/
def Obligations.CommandWriteStartsAndLatches : Prop :=
  ∀ (s : State) (k : Nat) (rest : List Event) (c : Context) (w : Word),
    s.phase = .running → s.ctxs[k]? = some c → k < nCtx s.params → c.pending = none →
    (s.params.blockBase + 0x100 * (k + 1)) % 4 = 0 →
    (∀ j d x y, j ≠ k → s.ctxs[j]? = some d → flightSpan d = some y →
      commandSpan w c.bufAddr c.len = some x → y.overlaps x = false) →
    ∃ o, step { s with agenda := .regWrite (s.params.blockBase + 0x100 * (k + 1)) 4 w :: rest } = .next
        { s with
          agenda := rest, reply := .none,
          ctxs := s.ctxs.set k
            { c with
              pending := some w, lArg0 := c.arg0, lArg1 := c.arg1, lAddr := c.bufAddr, lLen := c.len,
              owned := o } } ∧
      (∀ x, commandSpan w c.bufAddr c.len = some x → x ∈ o) ∧ ∀ x ∈ c.owned, x ∈ o

/-- A reserved offset reads 0 and ignores writes, with no other effect, whether or not BUSY = 1 (R52). -/
def Obligations.ReservedOffsetsDoNothing : Prop :=
  ∀ (s : State) (k off : Nat) (rest : List Event) (c : Context) (v : Word),
    s.phase = .running → s.ctxs[k]? = some c → k < nCtx s.params → off < 0x100 →
    off ∉ [0x00, 0x04, 0x08, 0x0C, 0x10, 0x14, 0x18, 0x1C, 0x20, 0x40, 0x44, 0x48, 0x4C, 0x50, 0x54, 0x58, 0x5C] →
    (s.params.blockBase + 0x100 * (k + 1) + off) % 4 = 0 →
    step { s with agenda := .regRead (s.params.blockBase + 0x100 * (k + 1) + off) 4 :: rest } =
      .next { s with agenda := rest, reply := .word 0 } ∧
    step { s with agenda := .regWrite (s.params.blockBase + 0x100 * (k + 1) + off) 4 v :: rest } =
      .next { s with agenda := rest, reply := .none }

/-- The read-only registers of a context that is not busy ignore writes (R53). -/
def Obligations.ReadOnlyRegistersIgnoreWrites : Prop :=
  ∀ (s : State) (k off : Nat) (rest : List Event) (c : Context) (v : Word),
    s.phase = .running → s.ctxs[k]? = some c → k < nCtx s.params → c.pending = none →
    off ∈ [0x04, 0x18, 0x1C, 0x20, 0x40, 0x44, 0x48, 0x4C, 0x50, 0x54, 0x58, 0x5C] →
    (s.params.blockBase + 0x100 * (k + 1) + off) % 4 = 0 →
    step { s with agenda := .regWrite (s.params.blockBase + 0x100 * (k + 1) + off) 4 v :: rest } =
      .next { s with agenda := rest, reply := .none }

/-- A read of a register of a context that is not busy, NAME0 to NAME7 among them, returns the register's content, the word
that the observation of R322 lists for it, and changes no register, counter, key, flag or byte of BUFMEM (R42 to R51, R81,
R236): only the engine's ownership of buffers ends, and only at a STATUS read (R85, log 6). -/
def Obligations.RegisterReadsReturnTheState : Prop :=
  ∀ (s : State) (k off : Nat) (rest : List Event) (c : Context),
    s.phase = .running → s.ctxs[k]? = some c → k < nCtx s.params → c.pending = none →
    off ∈ [0x00, 0x04, 0x08, 0x0C, 0x10, 0x14, 0x18, 0x1C, 0x20, 0x40, 0x44, 0x48, 0x4C, 0x50, 0x54, 0x58, 0x5C] →
    (s.params.blockBase + 0x100 * (k + 1) + off) % 4 = 0 →
    ∃ v d, step { s with agenda := .regRead (s.params.blockBase + 0x100 * (k + 1) + off) 4 :: rest } =
        .next { s with agenda := rest, ctxs := s.ctxs.set k d, reply := .word v } ∧
      d = { c with owned := if off = 0x04 then [] else c.owned } ∧
      (off = 0x00 → v = 0) ∧ (off = 0x04 → v = statusWord c) ∧ (off = 0x08 → v = c.arg0) ∧
      (off = 0x0C → v = c.arg1) ∧ (off = 0x10 → v = c.bufAddr) ∧ (off = 0x14 → v = c.len) ∧
      (off = 0x18 → v = infoWord c) ∧ (off = 0x1C → v.toNat = c.encCtr.toNat) ∧
      (off = 0x20 → v.toNat = c.decCtr.toNat) ∧ (0x40 ≤ off → v = regValue s.params c (.name ((off - 0x40) / 4))) ∧
      ∃ ws, (observation s).windows[k]? = some ws ∧ (off, v) ∈ ws

/-- Byte `j` of NAME0 to NAME7 (R51): the name of the context's kind, then zeros; byte 31 is always 0; all zero when
CREATED = 0. -/
def Obligations.NameRegisterBytes : Prop :=
  ∀ (p : Params) (c : Context) (j : Nat), p.wf → j < 32 →
    ((regValue p c (ctxReg (0x40 + 4 * (j / 4)))).extractLsb' (8 * (j % 4)) 8).toNat =
      (if c.created then ((implName p c.kind).getD j 0).toNat else 0) ∧
    (j = 31 → (regValue p c (ctxReg 0x5C)).extractLsb' 24 8 = 0)

/-- The bytes of VENDOR0 to VENDOR2 and BRAND0 to BRAND11 as the window shows them: outside block reset the strings of the
parameters (R56, R57), and 0 in every stage of block reset, also between the detection and the end of reset, where R131 could
be read otherwise (log 10, the model's DEDUCED reading). -/
def Obligations.VendorAndBrandBytes : Prop :=
  ∀ (s : State) (j : Nat), s.snapshotOk →
    (j < 12 →
      (s.phase = .running →
        some ((capValue (capWindow s) (capReg (0x10 + 4 * (j / 4)))).extractLsb' (8 * (j % 4)) 8) =
          s.params.capVendor.toList[j]?) ∧
      (s.phase ≠ .running → capValue (capWindow s) (capReg (0x10 + 4 * (j / 4))) = 0)) ∧
    (j < 48 →
      (s.phase = .running →
        some ((capValue (capWindow s) (capReg (0x20 + 4 * (j / 4)))).extractLsb' (8 * (j % 4)) 8) =
          s.params.capBrand.toList[j]?) ∧
      (s.phase ≠ .running → capValue (capWindow s) (capReg (0x20 + 4 * (j / 4))) = 0))

/-- The bits of CAP_STATUS (R55, R131, R132) and of CAP_OTHER0 to CAP_OTHER3 (R58) as the window shows them: outside block
reset those of the parameters, with at most one vendor bit, and 0 in every stage of block reset (log 10). -/
def Obligations.CapabilityFlagBits : Prop :=
  ∀ s : State, s.snapshotOk →
    (s.phase = .running →
      let v := capValue (capWindow s) (capReg 0x00)
      v.getLsbD 0 = true ∧
      v.getLsbD 1 = decide (s.params.capVendor.toList = vendorIntel) ∧
      v.getLsbD 2 = decide (s.params.capVendor.toList = vendorAmd) ∧
      v.getLsbD 8 = s.params.capSse2 ∧
      v.getLsbD 9 = s.params.capAvx2 ∧
      (∀ n, n ∉ [0, 1, 2, 8, 9] → v.getLsbD n = false) ∧
      ¬ (v.getLsbD 1 = true ∧ v.getLsbD 2 = true) ∧
      ∀ n, n < 128 →
        (capValue (capWindow s) (capReg (0x50 + 4 * (n / 32)))).getLsbD (n % 32) = s.params.capOther.getLsbD n) ∧
    (s.phase ≠ .running →
      capValue (capWindow s) (capReg 0x00) = 0 ∧
      ∀ n, n < 128 → capValue (capWindow s) (capReg (0x50 + 4 * (n / 32))) = 0)

/-- The capability window (R54): every write to it is ignored, and its reserved offsets read 0. -/
def Obligations.CapabilityWindowIsReadOnly : Prop :=
  ∀ (s : State) (off : Nat) (rest : List Event) (v : Word), s.phase = .running → off < 0x100 →
    (s.params.blockBase + off) % 4 = 0 →
    step { s with agenda := .regWrite (s.params.blockBase + off) 4 v :: rest } =
      .next { s with agenda := rest, reply := .none } ∧
    step { s with agenda := .regRead (s.params.blockBase + off) 4 :: rest } =
      .next { s with agenda := rest, reply := .word (capValue s.snap (capReg off)) } ∧
    ((off ≠ 0x00 ∧ ¬ (0x10 ≤ off ∧ off ≤ 0x18) ∧ ¬ (0x20 ≤ off ∧ off ≤ 0x5C)) →
      capValue s.snap (capReg off) = 0)

/-- Outside reset no step changes the capability snapshot or the parameters (R130, R136, R137, R63). -/
def Obligations.SnapshotIsImmutable : Prop :=
  ∀ s t : State, s.phase = .running → step s = .next t → t.params = s.params ∧
    (t.phase = .running → t.snap = s.snap)

/-- A register access that is not a naturally aligned 32-bit word has no step: it is refused by name (R53, R267). -/
def Obligations.MalformedRegisterAccessIsRefused : Prop :=
  ∀ (s : State) (addr width : Nat) (rest : List Event) (v : Word), s.phase = .running →
    (width ≠ 4 →
      step { s with agenda := .regRead addr width :: rest } = .refused .accessWidth ∧
      step { s with agenda := .regWrite addr width v :: rest } = .refused .accessWidth) ∧
    (width = 4 → addr % 4 ≠ 0 →
      step { s with agenda := .regRead addr width :: rest } = .refused .misalignedAccess ∧
      step { s with agenda := .regWrite addr width v :: rest } = .refused .misalignedAccess)

/-! ### Buffer memory and races (20_memory.md) -/

/-- A host write of BUFMEM that no engine owns is read back, and leaves every other byte and the rest of the state alone
(R71, R72, R81; one access of any number of bytes is the model's choice, log 20). -/
def Obligations.HostBufferWritesReadBack : Prop :=
  ∀ (s : State) (a : Nat) (bs : List Byte) (rest : List Event), s.phase = .running →
    a + bs.length ≤ bufMemSize s.params → racesWith s ⟨a, bs.length⟩ = false →
    ∃ m, Host.Core.run Sys2Proof.core 2 { s with agenda := .memWrite a bs :: .memRead a bs.length :: rest } =
        .next { s with agenda := rest, bufmem := m, reply := .bytes bs } ∧
      ∀ x, x < a ∨ a + bs.length ≤ x → Memory.read m x = Memory.read s.bufmem x

/-- A host access to an existing byte of a buffer that an engine owns is a race and is refused, read or write (R87 a;
log 6 for how long it owns it, log 20 for the width of an access). -/
def Obligations.BufferRacesAreRefused : Prop :=
  ∀ (s : State) (k a x : Nat) (bs : List Byte) (rest : List Event) (c : Context) (y : Span),
    s.phase = .running → a + bs.length ≤ bufMemSize s.params → s.ctxs[k]? = some c → y ∈ c.owned →
    a ≤ x → x < a + bs.length → y.start ≤ x → x < y.start + y.len →
    step { s with agenda := .memRead a bs.length :: rest } = .refused .bufferRace ∧
    step { s with agenda := .memWrite a bs :: rest } = .refused .bufferRace

/-- A CMD write whose buffer has a byte in common with that of another context's command in flight is a race and is refused
(R87 b; log 6 for where). -/
def Obligations.OverlappingCommandsAreRefused : Prop :=
  ∀ (s : State) (j k x : Nat) (rest : List Event) (c d : Context) (w : Word) (y z : Span),
    s.phase = .running → s.ctxs[k]? = some c → k < nCtx s.params → c.pending = none →
    (s.params.blockBase + 0x100 * (k + 1)) % 4 = 0 → j ≠ k → s.ctxs[j]? = some d →
    commandSpan w c.bufAddr c.len = some y → flightSpan d = some z →
    y.start ≤ x → x < y.start + y.len → z.start ≤ x → x < z.start + z.len →
    step { s with agenda := .regWrite (s.params.blockBase + 0x100 * (k + 1)) 4 w :: rest } =
      .refused .overlappingCommands

/-- No host access writes an engine's state, and a register access leaves BUFMEM alone (R53, R70, R81). -/
def Obligations.HostAccessesKeepTheEngines : Prop :=
  ∀ (s t : State) (e : Event) (k : Nat) (c : Context), (∀ j, e ≠ .perform j) → e ≠ .blockReset →
    runEvent s e = .next t → s.ctxs[k]? = some c →
    (∃ d, t.ctxs[k]? = some d ∧ c.SameEngine d) ∧ ((∀ a bs, e ≠ .memWrite a bs) → t.bufmem = s.bufmem)

/-- What a host read answers does not depend on key bytes, wrap windows or latches: they cannot be read (R53). -/
def Obligations.KeysAndLatchesCannotBeRead : Prop :=
  ∀ (s t : State) (e : Event) (base alt : Nat → Key) (p g a n : Nat → Word),
    (∃ addr width, e = .regRead addr width ∨ e = .memRead addr width) → runEvent s e = .next t →
    ∃ u, runEvent
        { s with
          ctxs := s.ctxs.mapIdx fun k c =>
            { c with base := base k, alt := alt k, lArg0 := p k, lArg1 := g k, lAddr := a k, lLen := n k } } e =
        .next u ∧
      u.reply = t.reply

/-- Two commands in flight in different contexts whose buffers do not overlap commute: performed in either order they leave
the same contexts and the same BUFMEM (R88). -/
def Obligations.DisjointCommandsCommute : Prop :=
  ∀ (s : State) (j k : Nat), s.Inv → s.flightsDisjoint → s.phase = .running → j ≠ k →
    j < nCtx s.params → k < nCtx s.params →
    ∃ t u, Host.Core.run Sys2Proof.core 2 { s with agenda := [.perform j, .perform k] } = .next t ∧
      Host.Core.run Sys2Proof.core 2 { s with agenda := [.perform k, .perform j] } = .next u ∧
      t.ctxs = u.ctxs ∧ t.bufmem = u.bufmem

/-! ### Reset and the invariants (70_reset_and_hazards.md, 10_state.md R61) -/

/-- Block reset takes its steps in order and reaches the state right after reset, with BUFMEM not touched (R300;
log 10 for the number of steps, log 14 for the model's own fields). -/
def Obligations.BlockResetReachesTheResetState : Prop :=
  ∀ (s : State) (rest : List Event), s.phase = .running →
    Host.Core.run Sys2Proof.core 4 { s with agenda := .blockReset :: rest } =
      .next { State.resetWith s.params with bufmem := s.bufmem, agenda := rest }

/-- The values after reset (R62): every context NONE with everything 0, every context register 0, the capability registers from
the parameters, N_CTX contexts. -/
def Obligations.ResetValues : Prop :=
  State.reset.ctxs.length = nCtx Config.params ∧ State.reset.snap = detect Config.params ∧
  State.reset.phase = .running ∧
  ∀ c ∈ State.reset.ctxs,
    c.created = false ∧ c.kind = .standard ∧ c.useAlt = false ∧ c.encCtr = 0 ∧ c.decCtr = 0 ∧
    (∀ b ∈ c.base.k1.toList ++ c.base.k2.toList ++ c.alt.k1.toList ++ c.alt.k2.toList, b = 0) ∧
    (∀ b ∈ c.base.wrap1 ++ c.base.wrap2 ++ c.alt.wrap1 ++ c.alt.wrap2, b = 0) ∧
    c.lArg0 = 0 ∧ c.lArg1 = 0 ∧ c.lAddr = 0 ∧ c.lLen = 0 ∧
    ∀ r, regValue Config.params c r = 0

/-- The state right after reset has the invariant of the block (R61), for any parameters with legal names (log 4 and
log 14 for BUFMEM and the model's own fields). -/
def Obligations.ResetHasTheInvariant : Prop :=
  State.reset.Inv ∧ State.reset.flightsDisjoint ∧ ∀ p : Params, p.wf → (State.resetWith p).Inv

/-- Every step keeps the invariant of the block (R61): canonical BUFMEM inside its size, N_CTX contexts, an empty engine where
CREATED = 0, the wrap windows, ERR_STICKY where the last code is an error, the snapshot of the detector. -/
def Obligations.StepKeepsTheInvariant : Prop :=
  ∀ s t : State, s.Inv → step s = .next t → t.Inv

/-- Every step keeps the buffers of the commands in flight disjoint (R87 b). -/
def Obligations.StepKeepsFlightsDisjoint : Prop :=
  ∀ s t : State, s.flightsDisjoint → step s = .next t → t.flightsDisjoint

/-! ### The host script (30_encoding.md R110) -/

/-- The pseudo-instruction `encrypt addr, len` of R110 runs to completion in five steps: it ends with a STATUS read that shows
BUSY = 0 and OK, the buffer transformed under the base key, ENC_CTR advanced, and the engine's ownership of the buffer ended
(WAIT as log 11 models it). -/
def Obligations.EncryptScriptRunsToCompletion : Prop :=
  ∀ (s : State) (k : Nat) (rest : List Event) (c : Context) (addr len : Word),
    s.Inv → s.phase = .running → s.ctxs[k]? = some c → s.params.blockBase % 4 = 0 →
    c.created = true → c.pending = none → addr ≠ 0 → 0 < len.toInt →
    addr.toNat + len.toNat ≤ bufMemSize s.params →
    (∀ j d x, j ≠ k → s.ctxs[j]? = some d → flightSpan d = some x →
      x.overlaps ⟨addr.toNat, len.toNat⟩ = false) →
    ∃ t d, Host.Core.run Sys2Proof.core 5
        { s with agenda := pseudoEvents s.params k (.encrypt addr len) ++ rest } = .next t ∧
      t.agenda = rest ∧ t.ctxs = s.ctxs.set k d ∧ t.reply = .word (statusWord d) ∧
      d = { c with
            bufAddr := addr, len := len, lArg0 := c.arg0, lArg1 := c.arg1, lAddr := addr, lLen := len,
            encCtr := c.encCtr + BitVec.ofNat 16 len.toNat, code := .ok, owned := [] } ∧
      (∀ i, i < len.toNat →
        Memory.read t.bufmem (addr.toNat + i) =
          cipherByte (Memory.read s.bufmem (addr.toNat + i)) (c.encCtr + BitVec.ofNat 16 i) c.base) ∧
      (∀ a, a < addr.toNat ∨ addr.toNat + len.toNat ≤ a → Memory.read t.bufmem a = Memory.read s.bufmem a)
end

