-- ==== Sys2Proof/Laws/Cipher.lean ====
section
/-! SUPPORT. The small lemmas of the key and cipher functions. -/

namespace Sys2Proof.Machine

theorem keyByte_getElem? (h : Bytes 256) (i : Byte) : h.toList[i.toNat]? = some (keyByte h i) :=
  List.getElem?_eq_getElem _

@[simp] theorem transform_nil (k : Key) (c : Counter) : transform k c [] = ([], c) := rfl

theorem transform_cons (k : Key) (c : Counter) (b : Byte) (bs : List Byte) :
    transform k c (b :: bs) =
      (cipherByte b c k :: (transform k (c + 1) bs).1, (transform k (c + 1) bs).2) := rfl

@[simp] theorem vtransformBlocks_zero (k : Key) (w : Nat) (c : Counter) (buf : List Byte) :
    vtransformBlocks k w 0 c buf = transform k c buf := rfl

theorem vtransformBlocks_succ (k : Key) (w n : Nat) (c : Counter) (buf : List Byte) :
    vtransformBlocks k w (n + 1) c buf =
      (vblock k w c (buf.take w) ++ (vtransformBlocks k w n (c + BitVec.ofNat 16 w) (buf.drop w)).1,
        (vtransformBlocks k w n (c + BitVec.ofNat 16 w) (buf.drop w)).2) := rfl

@[simp] theorem recurrence_zero (f : Byte → Byte) (b : Byte) : recurrence f 0 b = [] := rfl

theorem recurrence_succ (f : Byte → Byte) (n : Nat) (b : Byte) :
    recurrence f (n + 1) b = b :: recurrence f n (f b) := rfl

/-- Every variant's width is 1, 16 or 32 bytes. -/
theorem vectorWidth_cases (kind : Kind) : vectorWidth kind = 1 ∨ vectorWidth kind = 16 ∨ vectorWidth kind = 32 := by
  cases kind <;> simp [vectorWidth]

/-- A wrap window has its W − 1 bytes. -/
@[simp] theorem wrapOf_length (kind : Kind) (h : Bytes 256) :
    (wrapOf kind h).length = vectorWidth kind - 1 := by
  cases kind <;> simp [wrapOf, vectorWidth, h.length_eq]

@[simp] theorem vkey1_length (l : List Byte) (c : Counter) (w : Nat) : (vkey1 l c w).length = w := by
  simp [vkey1]

@[simp] theorem vkey2_length (l : List Byte) (c : Counter) (w : Nat) : (vkey2 l c w).length = w := by
  simp [vkey2]

/-- The reference transform keeps the number of bytes. -/
@[simp] theorem transform_length (k : Key) (c : Counter) (buf : List Byte) : (transform k c buf).1.length = buf.length := by
  induction buf generalizing c with
  | nil => rfl
  | cons b bs ih => simp [transform_cons, ih]

/-- So does the block loop, for any key and any wrap windows. -/
theorem vtransformBlocks_length (k : Key) (w n : Nat) (c : Counter) (buf : List Byte) :
    (vtransformBlocks k w n c buf).1.length = buf.length := by
  induction n generalizing c buf with
  | zero => simp
  | succ n ih =>
    simp only [vtransformBlocks_succ, List.length_append, ih, vblock, List.length_zipWith, List.length_take,
      vkey1_length, vkey2_length, List.length_drop]
    omega

/-- So does the engine of every variant. -/
@[simp] theorem engineTransform_length (kind : Kind) (k : Key) (c : Counter) (buf : List Byte) :
    (engineTransform kind k c buf).1.length = buf.length := by
  cases kind with
  | standard => exact transform_length k c buf
  | vector128 => exact vtransformBlocks_length k _ _ c buf
  | vector256 => exact vtransformBlocks_length k _ _ c buf

end Sys2Proof.Machine
end

