-- ==== Sys2Proof/Laws/Memory.lean ====
section
/-! SUPPORT. The laws of BUFMEM: what is read after a write, that every operation keeps the canonical form, and that a canonical
memory is determined by what it reads as. -/

namespace Sys2Proof.Machine

theorem Memory.read_nil (a : Nat) : Memory.read [] a = unlistedByte := rfl

theorem Memory.read_cons (c : Host.Cell) (m : Memory) (a : Nat) :
    Memory.read (c :: m) a = if c.1 = a then c.2 else Memory.read m a := rfl

/-- An address that no cell lists reads as `unlistedByte`. -/
theorem Memory.read_of_not_listed {m : Memory} {a : Nat} (h : ∀ c ∈ m, c.1 ≠ a) :
    Memory.read m a = unlistedByte := by
  induction m with
  | nil => rfl
  | cons d m ih =>
    rw [Memory.read_cons, if_neg (h d (by simp))]
    exact ih fun c hc => h c (by simp [hc])

theorem Memory.read_filter_same (m : Memory) (a : Nat) :
    Memory.read (m.filter fun c => c.1 != a) a = unlistedByte :=
  Memory.read_of_not_listed (by simp)

theorem Memory.read_filter_other (m : Memory) {a x : Nat} (h : x ≠ a) :
    Memory.read (m.filter fun c => c.1 != a) x = Memory.read m x := by
  induction m with
  | nil => rfl
  | cons d m ih =>
    by_cases hd : d.1 = a
    · rw [List.filter_cons_of_neg (by simp [hd]), ih, Memory.read_cons, if_neg (by omega)]
    · rw [List.filter_cons_of_pos (by simp [hd]), Memory.read_cons, Memory.read_cons, ih]

theorem Memory.read_insertCell_same (m : Memory) (c : Host.Cell) (h : ∀ d ∈ m, d.1 ≠ c.1) :
    Memory.read (Memory.insertCell m c) c.1 = c.2 := by
  induction m with
  | nil => simp [Memory.insertCell, Memory.read]
  | cons d m ih =>
    unfold Memory.insertCell
    split
    · simp [Memory.read_cons]
    · rw [Memory.read_cons, if_neg (h d (by simp))]
      exact ih fun e he => h e (by simp [he])

theorem Memory.read_insertCell_other (m : Memory) (c : Host.Cell) {x : Nat} (h : x ≠ c.1) :
    Memory.read (Memory.insertCell m c) x = Memory.read m x := by
  induction m with
  | nil => simp [Memory.insertCell, Memory.read, Ne.symm h]
  | cons d m ih =>
    unfold Memory.insertCell
    split
    · rw [Memory.read_cons, if_neg (Ne.symm h)]
    · rw [Memory.read_cons, Memory.read_cons, ih]

/-- A write is read back. -/
@[simp] theorem Memory.read_write_same (m : Memory) (a : Nat) (b : Byte) :
    Memory.read (Memory.write m a b) a = b := by
  unfold Memory.write
  dsimp only
  split
  · next hb => rw [Memory.read_filter_same, hb]
  · exact Memory.read_insertCell_same _ (a, b) (by simp)

/-- A write leaves every other address alone. -/
theorem Memory.read_write_other (m : Memory) {a x : Nat} (b : Byte) (h : x ≠ a) :
    Memory.read (Memory.write m a b) x = Memory.read m x := by
  unfold Memory.write
  dsimp only
  split
  · exact Memory.read_filter_other m h
  · rw [Memory.read_insertCell_other _ (a, b) h, Memory.read_filter_other m h]

theorem Memory.mem_insertCell {m : Memory} {c d : Host.Cell} :
    d ∈ Memory.insertCell m c ↔ d = c ∨ d ∈ m := by
  induction m with
  | nil => simp [Memory.insertCell]
  | cons e m ih =>
    unfold Memory.insertCell
    split
    · simp
    · simp [ih]; tauto

theorem Memory.pairwise_insertCell {m : Memory} {c : Host.Cell}
    (hm : m.Pairwise fun d e => d.1 < e.1) (hc : ∀ d ∈ m, d.1 ≠ c.1) :
    (Memory.insertCell m c).Pairwise fun d e => d.1 < e.1 := by
  induction m with
  | nil => simp [Memory.insertCell]
  | cons e m ih =>
    obtain ⟨he, hm⟩ := List.pairwise_cons.mp hm
    unfold Memory.insertCell
    split
    · next hlt =>
      refine List.pairwise_cons.mpr ⟨fun d hd => ?_, List.pairwise_cons.mpr ⟨he, hm⟩⟩
      rcases List.mem_cons.mp hd with rfl | hd
      · exact hlt
      · exact hlt.trans (he d hd)
    · next hlt =>
      refine List.pairwise_cons.mpr ⟨fun d hd => ?_, ih hm fun d hd => hc d (by simp [hd])⟩
      rcases Memory.mem_insertCell.mp hd with rfl | hd
      · exact lt_of_le_of_ne (not_lt.mp hlt) (hc e (by simp))
      · exact he d hd

/-- A cell of a written memory is the written one or an old one. -/
theorem Memory.mem_write {m : Memory} {a : Nat} {b : Byte} {c : Host.Cell}
    (h : c ∈ Memory.write m a b) : c = (a, b) ∨ c ∈ m := by
  unfold Memory.write at h
  dsimp only at h
  split at h
  · exact .inr (List.mem_filter.mp h).1
  · exact (Memory.mem_insertCell.mp h).imp id fun h => (List.mem_filter.mp h).1

/-- A write keeps the canonical form. -/
theorem Memory.wf_write {m : Memory} (h : m.wf) (a : Nat) (b : Byte) : (Memory.write m a b).wf := by
  refine ⟨?_, fun c hc => ?_⟩
  · unfold Memory.write
    dsimp only
    split
    · exact h.1.filter _
    · exact Memory.pairwise_insertCell (h.1.filter _) (by simp)
  · unfold Memory.write at hc
    dsimp only at hc
    split at hc
    · exact h.2 c (List.mem_filter.mp hc).1
    · next hb =>
      rcases Memory.mem_insertCell.mp hc with rfl | hc
      · exact hb
      · exact h.2 c (List.mem_filter.mp hc).1

@[simp] theorem Memory.writeBytes_nil (m : Memory) (a : Nat) : Memory.writeBytes m a [] = m := rfl

theorem Memory.writeBytes_cons (m : Memory) (a : Nat) (b : Byte) (bs : List Byte) :
    Memory.writeBytes m a (b :: bs) = Memory.writeBytes (Memory.write m a b) (a + 1) bs := rfl

/-- Every memory operation keeps the canonical form. -/
theorem Memory.wf_writeBytes {m : Memory} (h : m.wf) (a : Nat) (bs : List Byte) :
    (Memory.writeBytes m a bs).wf := by
  induction bs generalizing m a with
  | nil => exact h
  | cons b bs ih => exact ih (Memory.wf_write h a b) (a + 1)

/-- A cell of a written memory lies in the written range or is an old one. -/
theorem Memory.mem_writeBytes {m : Memory} {a : Nat} {bs : List Byte} {c : Host.Cell}
    (h : c ∈ Memory.writeBytes m a bs) : c.1 < a + bs.length ∨ c ∈ m := by
  induction bs generalizing m a with
  | nil => exact .inr h
  | cons b bs ih =>
    rcases ih h with h | h
    · left; simp only [List.length_cons]; omega
    · rcases Memory.mem_write h with rfl | h
      · left; simp
      · exact .inr h

/-- MemWrite leaves every address outside its range alone. -/
theorem Memory.read_writeBytes_outside (m : Memory) (a : Nat) (bs : List Byte) {x : Nat}
    (h : x < a ∨ a + bs.length ≤ x) : Memory.read (Memory.writeBytes m a bs) x = Memory.read m x := by
  induction bs generalizing m a with
  | nil => rfl
  | cons b bs ih =>
    simp only [List.length_cons] at h
    rw [Memory.writeBytes_cons, ih _ (a + 1) (by omega), Memory.read_write_other _ _ (by omega)]

/-- MemWrite stores byte v[i] at address a + i. -/
theorem Memory.read_writeBytes_inside (m : Memory) (a : Nat) (bs : List Byte) {i : Nat}
    (h : i < bs.length) : Memory.read (Memory.writeBytes m a bs) (a + i) = bs[i] := by
  induction bs generalizing m a i with
  | nil => simp at h
  | cons b bs ih =>
    rw [Memory.writeBytes_cons]
    cases i with
    | zero =>
      rw [Memory.read_writeBytes_outside _ _ _ (by omega)]
      simp
    | succ i =>
      have h' : i < bs.length := by simpa using h
      rw [show a + (i + 1) = a + 1 + i by omega, ih _ _ h']
      simp

@[simp] theorem Memory.readBytes_length (m : Memory) (a n : Nat) :
    (Memory.readBytes m a n).length = n := by
  induction n generalizing a with
  | zero => rfl
  | succ n ih => exact congrArg (· + 1) (ih (a + 1))

/-- MemRead gives the byte at address a + i as its byte i. -/
theorem Memory.readBytes_getElem (m : Memory) (a n : Nat) {i : Nat}
    (h : i < (Memory.readBytes m a n).length) : (Memory.readBytes m a n)[i] = Memory.read m (a + i) := by
  induction n generalizing a i with
  | zero => simp [Memory.readBytes] at h
  | succ n ih =>
    cases i with
    | zero => rfl
    | succ i =>
      simp only [Memory.readBytes, List.getElem_cons_succ]
      rw [ih, show a + 1 + i = a + (i + 1) by omega]

/-- MemRead of a range that two memories agree on. -/
theorem Memory.readBytes_congr {m m' : Memory} {a n : Nat}
    (h : ∀ x, a ≤ x → x < a + n → Memory.read m x = Memory.read m' x) :
    Memory.readBytes m a n = Memory.readBytes m' a n := by
  induction n generalizing a with
  | zero => rfl
  | succ n ih =>
    simp only [Memory.readBytes]
    rw [h a (by omega) (by omega), ih fun x h1 h2 => h x (by omega) (by omega)]

/-- In a canonical memory a listed address reads as its cell. -/
theorem Memory.read_of_mem {m : Memory} (h : m.wf) {c : Host.Cell} (hc : c ∈ m) :
    Memory.read m c.1 = c.2 := by
  obtain ⟨hp, hz⟩ := h
  induction m with
  | nil => simp at hc
  | cons d m ih =>
    obtain ⟨hd, hp⟩ := List.pairwise_cons.mp hp
    rw [Memory.read_cons]
    rcases List.mem_cons.mp hc with rfl | hc
    · simp
    · rw [if_neg (hd c hc).ne]
      exact ih hc hp fun e he => hz e (by simp [he])

/-- A canonical memory is determined by what it reads as, so equal contents are equal data. -/
theorem Memory.ext_of_read {m m' : Memory} (h : m.wf) (h' : m'.wf)
    (hr : ∀ a, Memory.read m a = Memory.read m' a) : m = m' := by
  have key : ∀ {p q : Memory}, p.wf → q.wf → (∀ a, Memory.read p a = Memory.read q a) →
      ∀ c ∈ p, c ∈ q := by
    intro p q hp hq hr c hc
    by_contra hn
    have hread : Memory.read q c.1 = c.2 := (hr c.1).symm.trans (Memory.read_of_mem hp hc)
    by_cases hex : ∃ d ∈ q, d.1 = c.1
    · obtain ⟨d, hd, hdc⟩ := hex
      have hdq : Memory.read q d.1 = d.2 := Memory.read_of_mem hq hd
      rw [hdc, hread] at hdq
      exact hn ((Prod.ext hdc.symm hdq : c = d) ▸ hd)
    · push Not at hex
      rw [Memory.read_of_not_listed hex] at hread
      exact hp.2 c hc hread.symm
  refine List.Perm.eq_of_pairwise (le := fun c d : Host.Cell => c.1 < d.1)
    (fun a b _ _ hab hba => absurd hab (not_lt.mpr hba.le)) h.1 h'.1 ?_
  have nodup : ∀ {p : Memory}, p.wf → p.Nodup := fun hp =>
    hp.1.imp fun hlt heq => absurd (congrArg Prod.fst heq) hlt.ne
  exact (List.perm_ext_iff_of_nodup (nodup h) (nodup h')).mpr fun c =>
    ⟨key h h' hr c, key h' h (fun a => (hr a).symm) c⟩

end Sys2Proof.Machine
end

