-- ==== Sys2Proof/Laws/State.lean ====
section
/-! SUPPORT. What each update of a context or of the state leaves in each field: one lemma per field, true by `rfl`. -/

namespace Sys2Proof.Machine

/-! ### The end of a command -/

section
variable (c : Context) (r : ResultCode)

@[simp] theorem withResult_created : (withResult c r).created = c.created := rfl
@[simp] theorem withResult_kind : (withResult c r).kind = c.kind := rfl
@[simp] theorem withResult_useAlt : (withResult c r).useAlt = c.useAlt := rfl
@[simp] theorem withResult_encCtr : (withResult c r).encCtr = c.encCtr := rfl
@[simp] theorem withResult_decCtr : (withResult c r).decCtr = c.decCtr := rfl
@[simp] theorem withResult_base : (withResult c r).base = c.base := rfl
@[simp] theorem withResult_alt : (withResult c r).alt = c.alt := rfl
@[simp] theorem withResult_pending : (withResult c r).pending = none := rfl
@[simp] theorem withResult_code : (withResult c r).code = r := rfl
@[simp] theorem withResult_errSticky : (withResult c r).errSticky = (c.errSticky || r != .ok) := rfl
@[simp] theorem withResult_busyViol : (withResult c r).busyViol = c.busyViol := rfl
@[simp] theorem withResult_arg0 : (withResult c r).arg0 = c.arg0 := rfl
@[simp] theorem withResult_arg1 : (withResult c r).arg1 = c.arg1 := rfl
@[simp] theorem withResult_bufAddr : (withResult c r).bufAddr = c.bufAddr := rfl
@[simp] theorem withResult_len : (withResult c r).len = c.len := rfl
@[simp] theorem withResult_lArg0 : (withResult c r).lArg0 = c.lArg0 := rfl
@[simp] theorem withResult_lArg1 : (withResult c r).lArg1 = c.lArg1 := rfl
@[simp] theorem withResult_lAddr : (withResult c r).lAddr = c.lAddr := rfl
@[simp] theorem withResult_lLen : (withResult c r).lLen = c.lLen := rfl
@[simp] theorem withResult_owned : (withResult c r).owned = c.owned := rfl

end

/-! ### A busy violation -/

section
variable (c : Context)

@[simp] theorem withBusyViolation_created : (withBusyViolation c).created = c.created := rfl
@[simp] theorem withBusyViolation_kind : (withBusyViolation c).kind = c.kind := rfl
@[simp] theorem withBusyViolation_useAlt : (withBusyViolation c).useAlt = c.useAlt := rfl
@[simp] theorem withBusyViolation_encCtr : (withBusyViolation c).encCtr = c.encCtr := rfl
@[simp] theorem withBusyViolation_decCtr : (withBusyViolation c).decCtr = c.decCtr := rfl
@[simp] theorem withBusyViolation_base : (withBusyViolation c).base = c.base := rfl
@[simp] theorem withBusyViolation_alt : (withBusyViolation c).alt = c.alt := rfl
@[simp] theorem withBusyViolation_pending : (withBusyViolation c).pending = c.pending := rfl
@[simp] theorem withBusyViolation_code : (withBusyViolation c).code = c.code := rfl
@[simp] theorem withBusyViolation_errSticky : (withBusyViolation c).errSticky = c.errSticky := rfl
@[simp] theorem withBusyViolation_busyViol : (withBusyViolation c).busyViol = true := rfl
@[simp] theorem withBusyViolation_arg0 : (withBusyViolation c).arg0 = c.arg0 := rfl
@[simp] theorem withBusyViolation_arg1 : (withBusyViolation c).arg1 = c.arg1 := rfl
@[simp] theorem withBusyViolation_bufAddr : (withBusyViolation c).bufAddr = c.bufAddr := rfl
@[simp] theorem withBusyViolation_len : (withBusyViolation c).len = c.len := rfl
@[simp] theorem withBusyViolation_lArg0 : (withBusyViolation c).lArg0 = c.lArg0 := rfl
@[simp] theorem withBusyViolation_lArg1 : (withBusyViolation c).lArg1 = c.lArg1 := rfl
@[simp] theorem withBusyViolation_lAddr : (withBusyViolation c).lAddr = c.lAddr := rfl
@[simp] theorem withBusyViolation_lLen : (withBusyViolation c).lLen = c.lLen := rfl
@[simp] theorem withBusyViolation_owned : (withBusyViolation c).owned = c.owned := rfl

end

/-! ### An accepted CMD write -/

section
variable (c : Context) (w : Word)

@[simp] theorem startCommand_created : (startCommand c w).created = c.created := rfl
@[simp] theorem startCommand_kind : (startCommand c w).kind = c.kind := rfl
@[simp] theorem startCommand_useAlt : (startCommand c w).useAlt = c.useAlt := rfl
@[simp] theorem startCommand_encCtr : (startCommand c w).encCtr = c.encCtr := rfl
@[simp] theorem startCommand_decCtr : (startCommand c w).decCtr = c.decCtr := rfl
@[simp] theorem startCommand_base : (startCommand c w).base = c.base := rfl
@[simp] theorem startCommand_alt : (startCommand c w).alt = c.alt := rfl
@[simp] theorem startCommand_pending : (startCommand c w).pending = some w := rfl
@[simp] theorem startCommand_code : (startCommand c w).code = c.code := rfl
@[simp] theorem startCommand_errSticky : (startCommand c w).errSticky = c.errSticky := rfl
@[simp] theorem startCommand_busyViol : (startCommand c w).busyViol = c.busyViol := rfl
@[simp] theorem startCommand_arg0 : (startCommand c w).arg0 = c.arg0 := rfl
@[simp] theorem startCommand_arg1 : (startCommand c w).arg1 = c.arg1 := rfl
@[simp] theorem startCommand_bufAddr : (startCommand c w).bufAddr = c.bufAddr := rfl
@[simp] theorem startCommand_len : (startCommand c w).len = c.len := rfl
@[simp] theorem startCommand_lArg0 : (startCommand c w).lArg0 = c.arg0 := rfl
@[simp] theorem startCommand_lArg1 : (startCommand c w).lArg1 = c.arg1 := rfl
@[simp] theorem startCommand_lAddr : (startCommand c w).lAddr = c.bufAddr := rfl
@[simp] theorem startCommand_lLen : (startCommand c w).lLen = c.len := rfl
@[simp] theorem startCommand_owned : (startCommand c w).owned = (commandSpan w c.bufAddr c.len).toList ++ c.owned := rfl

end

/-! ### CONSTRUCT -/

section
variable (p : Params) (c : Context) (kind : Kind)

@[simp] theorem construct_created : (construct p c kind).created = true := rfl
@[simp] theorem construct_kind : (construct p c kind).kind = kind := rfl
@[simp] theorem construct_useAlt : (construct p c kind).useAlt = false := rfl
@[simp] theorem construct_encCtr : (construct p c kind).encCtr = 0 := rfl
@[simp] theorem construct_decCtr : (construct p c kind).decCtr = 0 := rfl
@[simp] theorem construct_base : (construct p c kind).base = baseKey kind p.defaultP p.defaultG := rfl
@[simp] theorem construct_alt : (construct p c kind).alt = keyOf kind (Bytes.zero 256) (Bytes.zero 256) := rfl
@[simp] theorem construct_pending : (construct p c kind).pending = c.pending := rfl
@[simp] theorem construct_code : (construct p c kind).code = c.code := rfl
@[simp] theorem construct_errSticky : (construct p c kind).errSticky = c.errSticky := rfl
@[simp] theorem construct_busyViol : (construct p c kind).busyViol = c.busyViol := rfl
@[simp] theorem construct_arg0 : (construct p c kind).arg0 = c.arg0 := rfl
@[simp] theorem construct_arg1 : (construct p c kind).arg1 = c.arg1 := rfl
@[simp] theorem construct_bufAddr : (construct p c kind).bufAddr = c.bufAddr := rfl
@[simp] theorem construct_len : (construct p c kind).len = c.len := rfl
@[simp] theorem construct_lArg0 : (construct p c kind).lArg0 = c.lArg0 := rfl
@[simp] theorem construct_lArg1 : (construct p c kind).lArg1 = c.lArg1 := rfl
@[simp] theorem construct_lAddr : (construct p c kind).lAddr = c.lAddr := rfl
@[simp] theorem construct_lLen : (construct p c kind).lLen = c.lLen := rfl
@[simp] theorem construct_owned : (construct p c kind).owned = c.owned := rfl

end

/-! ### CREATE_FAIL -/

section
variable (c : Context)

@[simp] theorem unconstruct_created : (unconstruct c).created = false := rfl
@[simp] theorem unconstruct_kind : (unconstruct c).kind = .standard := rfl
@[simp] theorem unconstruct_useAlt : (unconstruct c).useAlt = false := rfl
@[simp] theorem unconstruct_encCtr : (unconstruct c).encCtr = 0 := rfl
@[simp] theorem unconstruct_decCtr : (unconstruct c).decCtr = 0 := rfl
@[simp] theorem unconstruct_base : (unconstruct c).base = Key.zero := rfl
@[simp] theorem unconstruct_alt : (unconstruct c).alt = Key.zero := rfl
@[simp] theorem unconstruct_pending : (unconstruct c).pending = c.pending := rfl
@[simp] theorem unconstruct_code : (unconstruct c).code = c.code := rfl
@[simp] theorem unconstruct_errSticky : (unconstruct c).errSticky = c.errSticky := rfl
@[simp] theorem unconstruct_busyViol : (unconstruct c).busyViol = c.busyViol := rfl
@[simp] theorem unconstruct_arg0 : (unconstruct c).arg0 = c.arg0 := rfl
@[simp] theorem unconstruct_arg1 : (unconstruct c).arg1 = c.arg1 := rfl
@[simp] theorem unconstruct_bufAddr : (unconstruct c).bufAddr = c.bufAddr := rfl
@[simp] theorem unconstruct_len : (unconstruct c).len = c.len := rfl
@[simp] theorem unconstruct_lArg0 : (unconstruct c).lArg0 = c.lArg0 := rfl
@[simp] theorem unconstruct_lArg1 : (unconstruct c).lArg1 = c.lArg1 := rfl
@[simp] theorem unconstruct_lAddr : (unconstruct c).lAddr = c.lAddr := rfl
@[simp] theorem unconstruct_lLen : (unconstruct c).lLen = c.lLen := rfl
@[simp] theorem unconstruct_owned : (unconstruct c).owned = c.owned := rfl

end

/-! ### Replacing a context -/

section
variable (s : State) (k : Nat) (c : Context)

@[simp] theorem setCtx_params : (setCtx s k c).params = s.params := rfl
@[simp] theorem setCtx_phase : (setCtx s k c).phase = s.phase := rfl
@[simp] theorem setCtx_snap : (setCtx s k c).snap = s.snap := rfl
@[simp] theorem setCtx_ctxs : (setCtx s k c).ctxs = s.ctxs.set k c := rfl
@[simp] theorem setCtx_bufmem : (setCtx s k c).bufmem = s.bufmem := rfl
@[simp] theorem setCtx_active : (setCtx s k c).active = s.active := rfl
@[simp] theorem setCtx_agenda : (setCtx s k c).agenda = s.agenda := rfl
@[simp] theorem setCtx_reply : (setCtx s k c).reply = s.reply := rfl

end

/-! ### Ending a command in the active context -/

section
variable (s : State) (c : Context) (m : Memory) (r : ResultCode)

@[simp] theorem endCommand_params : (endCommand s c m r).params = s.params := rfl
@[simp] theorem endCommand_phase : (endCommand s c m r).phase = s.phase := rfl
@[simp] theorem endCommand_snap : (endCommand s c m r).snap = s.snap := rfl
@[simp] theorem endCommand_ctxs : (endCommand s c m r).ctxs = s.ctxs.set s.active (withResult c r) := rfl
@[simp] theorem endCommand_bufmem : (endCommand s c m r).bufmem = m := rfl
@[simp] theorem endCommand_active : (endCommand s c m r).active = s.active := rfl
@[simp] theorem endCommand_agenda : (endCommand s c m r).agenda = s.agenda := rfl
@[simp] theorem endCommand_reply : (endCommand s c m r).reply = s.reply := rfl

end

/-! ### Raising an error -/

section
variable (s : State) (c : Context) (e : ResultCode)

@[simp] theorem raiseError_params : (raiseError s c e).params = s.params := rfl
@[simp] theorem raiseError_phase : (raiseError s c e).phase = s.phase := rfl
@[simp] theorem raiseError_snap : (raiseError s c e).snap = s.snap := rfl
@[simp] theorem raiseError_ctxs : (raiseError s c e).ctxs = s.ctxs.set s.active (withResult c e) := rfl
@[simp] theorem raiseError_bufmem : (raiseError s c e).bufmem = s.bufmem := rfl
@[simp] theorem raiseError_active : (raiseError s c e).active = s.active := rfl
@[simp] theorem raiseError_agenda : (raiseError s c e).agenda = s.agenda := rfl
@[simp] theorem raiseError_reply : (raiseError s c e).reply = s.reply := rfl

end

/-! ### A refused busy access -/

section
variable (s : State) (k : Nat) (c : Context) (r : Reply)

@[simp] theorem refuseBusy_params : (refuseBusy s k c r).params = s.params := rfl
@[simp] theorem refuseBusy_phase : (refuseBusy s k c r).phase = s.phase := rfl
@[simp] theorem refuseBusy_snap : (refuseBusy s k c r).snap = s.snap := rfl
@[simp] theorem refuseBusy_ctxs : (refuseBusy s k c r).ctxs = s.ctxs.set k (withBusyViolation c) := rfl
@[simp] theorem refuseBusy_bufmem : (refuseBusy s k c r).bufmem = s.bufmem := rfl
@[simp] theorem refuseBusy_active : (refuseBusy s k c r).active = s.active := rfl
@[simp] theorem refuseBusy_agenda : (refuseBusy s k c r).agenda = s.agenda := rfl
@[simp] theorem refuseBusy_reply : (refuseBusy s k c r).reply = r := rfl

end

/-! ### Block reset begins -/

section
variable (s : State)

@[simp] theorem beginReset_params : (beginReset s).params = s.params := rfl
@[simp] theorem beginReset_phase : (beginReset s).phase = .contexts := rfl
@[simp] theorem beginReset_snap : (beginReset s).snap = Snapshot.zero := rfl
@[simp] theorem beginReset_ctxs : (beginReset s).ctxs = s.ctxs := rfl
@[simp] theorem beginReset_bufmem : (beginReset s).bufmem = s.bufmem := rfl
@[simp] theorem beginReset_active : (beginReset s).active = s.active := rfl
@[simp] theorem beginReset_agenda : (beginReset s).agenda = s.agenda := rfl
@[simp] theorem beginReset_reply : (beginReset s).reply = .none := rfl

end

/-! ### A command placed for the next step -/

section
variable (s : State) (w : Word)

@[simp] theorem fetchState_params : (fetchState s w).params = s.params := rfl
@[simp] theorem fetchState_phase : (fetchState s w).phase = .running := rfl
@[simp] theorem fetchState_snap : (fetchState s w).snap = s.snap := rfl
@[simp] theorem fetchState_ctxs : (fetchState s w).ctxs = s.ctxs.modify 0 (fun c => startCommand c w) := rfl
@[simp] theorem fetchState_bufmem : (fetchState s w).bufmem = s.bufmem := rfl
@[simp] theorem fetchState_active : (fetchState s w).active = s.active := rfl
@[simp] theorem fetchState_agenda : (fetchState s w).agenda = .perform 0 :: s.agenda := rfl
@[simp] theorem fetchState_reply : (fetchState s w).reply = s.reply := rfl

end

/-! ### The state after reset -/

section
variable (p : Params)

@[simp] theorem resetWith_params : (State.resetWith p).params = p := rfl
@[simp] theorem resetWith_phase : (State.resetWith p).phase = .running := rfl
@[simp] theorem resetWith_snap : (State.resetWith p).snap = detect p := rfl
@[simp] theorem resetWith_ctxs : (State.resetWith p).ctxs = List.replicate (nCtx p) Context.reset := rfl
@[simp] theorem resetWith_bufmem : (State.resetWith p).bufmem = [] := rfl
@[simp] theorem resetWith_active : (State.resetWith p).active = 0 := rfl
@[simp] theorem resetWith_agenda : (State.resetWith p).agenda = [] := rfl
@[simp] theorem resetWith_reply : (State.resetWith p).reply = .none := rfl

end

/-! ### The key of two halves -/

section
variable (kind : Kind) (a b : Bytes 256)

@[simp] theorem keyOf_k1 : (keyOf kind a b).k1 = a := rfl
@[simp] theorem keyOf_k2 : (keyOf kind a b).k2 = b := rfl
@[simp] theorem keyOf_wrap1 : (keyOf kind a b).wrap1 = wrapOf kind a := rfl
@[simp] theorem keyOf_wrap2 : (keyOf kind a b).wrap2 = wrapOf kind b := rfl

end

end Sys2Proof.Machine
end

