-- ==== Sys2Proof/Laws/Ops.lean ====
section
/-! SUPPORT. What each shared operation of the commands can do, said once. -/

namespace Sys2Proof.Machine

/-- A command that answers a next state ran in the active context. -/
theorem inActive_next {s t : State} {f : Context → State} (h : inActive s f = .next t) :
    ∃ c, s.ctxs[s.active]? = some c ∧ t = f c := by
  unfold inActive at h
  split at h
  · cases h
  · next c hc => exact ⟨c, hc, (Host.Outcome.next.inj h).symm⟩

theorem inActive_eq {s : State} {c : Context} (f : Context → State) (h : s.ctxs[s.active]? = some c) :
    inActive s f = .next (f c) := by
  simp [inActive, h]

@[simp] theorem ifCreated_created {s t : State} {c : Context} (h : c.created = true) :
    ifCreated s c t = t := if_pos h

@[simp] theorem ifCreated_none {s t : State} {c : Context} (h : c.created = false) :
    ifCreated s c t = raiseError s c .notCreated := by simp [ifCreated, h]

/-- The keys that GEN_KEY, GEN_ALT_KEY and creation write have their wrap windows. -/
theorem keyOf_wrapped (kind : Kind) (k1 k2 : Bytes 256) : (keyOf kind k1 k2).wrapped kind := ⟨rfl, rfl⟩

theorem baseKey_wrapped (kind : Kind) (p g : Word) : (baseKey kind p g).wrapped kind := ⟨rfl, rfl⟩

theorem altKey_wrapped (kind : Kind) (base : Key) (a b : Word) : (altKey kind base a b).wrapped kind := ⟨rfl, rfl⟩

/-- An error writes CODE, ERR_STICKY and BUSY of the active context, and nothing else. -/
theorem raiseError_eq {s : State} {c : Context} {e : ResultCode} (h : e ≠ .ok) :
    raiseError s c e = setCtx s s.active { c with code := e, errSticky := true, pending := none } := by
  have he : (e != .ok) = true := by simpa using h
  simp [raiseError, endCommand, setCtx, withResult, he]

/-- The three answers of CHECK_BUFFER. -/
theorem checkBuffer_cases (p : Params) (c : Context) :
    (checkBuffer p c = some .invalidArgument ∧ (c.lAddr = 0 ∨ bufferLen c ≤ 0)) ∨
    (checkBuffer p c = some .accessFault ∧ c.lAddr ≠ 0 ∧ 0 < bufferLen c ∧
      (bufMemSize p : Int) < bufferAddr c + bufferLen c) ∨
    (checkBuffer p c = none ∧ c.lAddr ≠ 0 ∧ 0 < bufferLen c ∧
      bufferAddr c + bufferLen c ≤ (bufMemSize p : Int)) := by
  unfold checkBuffer
  by_cases h : c.lAddr = 0 ∨ bufferLen c ≤ 0
  · exact .inl ⟨if_pos h, h⟩
  · rw [if_neg h]
    push Not at h
    by_cases h' : (bufMemSize p : Int) < bufferAddr c + bufferLen c
    · exact .inr (.inl ⟨if_pos h', h.1, h.2, h'⟩)
    · exact .inr (.inr ⟨if_neg h', h.1, h.2, not_lt.mp h'⟩)

/-- A stream command raises NotCreated, or the error of its checks, or transforms its buffer. -/
theorem streamCommand_cases (s : State) (c : Context) (k : Key) (ctr : Counter) (commit : Counter → Context) :
    (c.created = false ∧ streamCommand s c k ctr commit = raiseError s c .notCreated) ∨
    (∃ e, c.created = true ∧ checkBuffer s.params c = some e ∧
      streamCommand s c k ctr commit = raiseError s c e) ∨
    (c.created = true ∧ checkBuffer s.params c = none ∧
      streamCommand s c k ctr commit =
        endCommand s
          (commit (engineTransform c.kind k ctr (Memory.readBytes s.bufmem (bufferAddr c) (bufferCount c))).2)
          (Memory.writeBytes s.bufmem (bufferAddr c)
            (engineTransform c.kind k ctr (Memory.readBytes s.bufmem (bufferAddr c) (bufferCount c))).1) .ok) := by
  unfold streamCommand
  cases hc : c.created with
  | false => exact .inl ⟨rfl, ifCreated_none hc⟩
  | true =>
    rw [ifCreated_created hc]
    cases hb : checkBuffer s.params c with
    | some e => exact .inr (.inl ⟨e, rfl, rfl, rfl⟩)
    | none => exact .inr (.inr ⟨rfl, rfl, rfl⟩)

theorem Context.SameRegisters.rfl' (c : Context) : c.SameRegisters c := by
  constructor <;> rfl

/-- Every command ends: it runs in the active context, keeps the fields that no command writes, and its state is that of one
`endCommand`. -/
theorem exec_next {i : Instr} {s t : State} (h : exec i s = .next t) :
    ∃ c d m r, s.ctxs[s.active]? = some c ∧ c.SameRegisters d ∧ t = endCommand s d m r := by
  have stream : ∀ (c : Context) (k : Key) (ctr : Counter) (commit : Counter → Context),
      (∀ n, c.SameRegisters (commit n)) →
      ∃ d m r, c.SameRegisters d ∧ streamCommand s c k ctr commit = endCommand s d m r := by
    intro c k ctr commit hk
    rcases streamCommand_cases s c k ctr commit with ⟨-, h⟩ | ⟨e, -, -, h⟩ | ⟨-, -, h⟩
    · exact ⟨c, _, _, .rfl' c, h⟩
    · exact ⟨c, _, _, .rfl' c, h⟩
    · exact ⟨_, _, _, hk _, h⟩
  have created : ∀ (c d : Context), c.SameRegisters d →
      ∃ d' m r, c.SameRegisters d' ∧ ifCreated s c (endCommand s d s.bufmem .ok) = endCommand s d' m r := by
    intro c d hd
    cases hc : c.created with
    | false => exact ⟨c, _, _, .rfl' c, ifCreated_none hc⟩
    | true => exact ⟨d, _, _, hd, ifCreated_created hc⟩
  cases i with
  | createDefault =>
    obtain ⟨c, hc, rfl⟩ := inActive_next h
    exact ⟨c, construct s.params c (best s.snap), _, _, hc, by constructor <;> rfl, rfl⟩
  | create var =>
    obtain ⟨c, hc, rfl⟩ := inActive_next h
    refine ⟨c, ?_⟩
    split
    · exact ⟨unconstruct c, _, _, hc, by constructor <;> rfl, rfl⟩
    · next kind _ =>
      split
      · exact ⟨construct s.params c kind, _, _, hc, by constructor <;> rfl, rfl⟩
      · exact ⟨unconstruct c, _, _, hc, by constructor <;> rfl, rfl⟩
  | genKey =>
    obtain ⟨c, hc, rfl⟩ := inActive_next h
    obtain ⟨d, m, r, hd, he⟩ :=
      created c { c with base := baseKey c.kind (seedP c) (seedG c) } (by constructor <;> rfl)
    exact ⟨c, d, m, r, hc, hd, he⟩
  | genAltKey =>
    obtain ⟨c, hc, rfl⟩ := inActive_next h
    obtain ⟨d, m, r, hd, he⟩ :=
      created c { c with alt := altKey c.kind c.base (seedA c) (seedB c), useAlt := true, encCtr := 0 }
        (by constructor <;> rfl)
    exact ⟨c, d, m, r, hc, hd, he⟩
  | encrypt =>
    obtain ⟨c, hc, rfl⟩ := inActive_next h
    obtain ⟨d, m, r, hd, he⟩ :=
      stream c c.base c.encCtr (fun n => { c with encCtr := n }) fun n => by constructor <;> rfl
    exact ⟨c, d, m, r, hc, hd, he⟩
  | decrypt =>
    obtain ⟨c, hc, rfl⟩ := inActive_next h
    obtain ⟨d, m, r, hd, he⟩ :=
      stream c (decryptKey c) c.decCtr (fun n => { c with decCtr := n }) fun n => by constructor <;> rfl
    exact ⟨c, d, m, r, hc, hd, he⟩
  | resetCounters =>
    obtain ⟨c, hc, rfl⟩ := inActive_next h
    obtain ⟨d, m, r, hd, he⟩ :=
      created c { c with encCtr := 0, decCtr := 0 } (by constructor <;> rfl)
    exact ⟨c, d, m, r, hc, hd, he⟩

end Sys2Proof.Machine
end

