-- ==== Sys2Proof/Laws/Host.lean ====
section
/-! SUPPORT. What each host access can do, said once. -/

namespace Sys2Proof.Machine

/-- A register access that is not refused is 32 bits wide, aligned and inside a window. -/
theorem regAccess_next {s t : State} {addr width : Nat}
    {f : Window × Nat → Host.Outcome State Fault Refusal} (h : regAccess s addr width f = .next t) :
    width = 4 ∧ addr % 4 = 0 ∧ ∃ x, locate s.params addr = some x ∧ f x = .next t := by
  unfold regAccess at h
  split at h
  · cases h
  split at h
  · cases h
  split at h
  · cases h
  next hw ha _ x hx => exact ⟨not_not.mp hw, not_not.mp ha, x, hx, h⟩

theorem regAccess_eq {s : State} {addr : Nat} {x : Window × Nat}
    (f : Window × Nat → Host.Outcome State Fault Refusal)
    (ha : addr % 4 = 0) (hx : locate s.params addr = some x) : regAccess s addr 4 f = f x := by
  simp [regAccess, ha, hx]

/-- The address of an offset of a context window names that window and offset. -/
theorem locate_context (p : Params) {k off : Nat} (hk : k < nCtx p) (ho : off < 0x100) :
    locate p (p.blockBase + 0x100 * (k + 1) + off) = some (.context k, off) := by
  unfold locate
  have e1 : p.blockBase + 0x100 * (k + 1) + off - p.blockBase = 0x100 * (k + 1) + off := by omega
  have e2 : (0x100 * (k + 1) + off) / 0x100 = k + 1 := by omega
  have e3 : (0x100 * (k + 1) + off) % 0x100 = off := by omega
  rw [if_neg (by omega)]
  simp only [e1, e2, e3]
  rw [if_neg (by omega), if_pos (by omega)]
  rfl

/-- The address of an offset of the capability window names that window and offset. -/
theorem locate_capability (p : Params) {off : Nat} (ho : off < 0x100) :
    locate p (p.blockBase + off) = some (.capability, off) := by
  unfold locate
  have e1 : p.blockBase + off - p.blockBase = off := by omega
  rw [if_neg (by omega)]
  simp only [e1]
  rw [if_pos (by omega), Nat.mod_eq_of_lt ho]

/-- An aligned word read of a register of a context that exists is answered by `readRegister`. -/
theorem hostRegRead_context {s : State} {k off : Nat} {c : Context} (hk : k < nCtx s.params) (ho : off < 0x100)
    (hc : s.ctxs[k]? = some c) (ha : (s.params.blockBase + 0x100 * (k + 1) + off) % 4 = 0) :
    hostRegRead s (s.params.blockBase + 0x100 * (k + 1) + off) 4 = .next (readRegister s k c (ctxReg off)) := by
  unfold hostRegRead
  rw [regAccess_eq _ ha (locate_context _ hk ho)]
  simp [hc]

/-- An aligned word write of a register of a context that exists is answered by `writeRegister`. -/
theorem hostRegWrite_context {s : State} {k off : Nat} {c : Context} {v : Word} (hk : k < nCtx s.params)
    (ho : off < 0x100) (hc : s.ctxs[k]? = some c)
    (ha : (s.params.blockBase + 0x100 * (k + 1) + off) % 4 = 0) :
    hostRegWrite s (s.params.blockBase + 0x100 * (k + 1) + off) 4 v = writeRegister s k c (ctxReg off) v := by
  unfold hostRegWrite
  rw [regAccess_eq _ ha (locate_context _ hk ho)]
  simp [hc]

/-- An accepted CMD write starts the command, and no command in flight elsewhere uses a byte of its buffer. -/
theorem acceptCommand_next {s t : State} {k : Nat} {c : Context} {w : Word}
    (h : acceptCommand s k c w = .next t) :
    t = { setCtx s k (startCommand c w) with reply := .none } ∧
    ∀ x, commandSpan w c.bufAddr c.len = some x → overlapsOther s k x = false := by
  unfold acceptCommand at h
  split at h
  · cases h
  · next hn =>
    refine ⟨(Host.Outcome.next.inj h).symm, fun x hx => ?_⟩
    simpa [hx] using hn

/-- Another context in flight uses no byte of a range that `overlapsOther` clears. -/
theorem overlapsOther_false {s : State} {k : Nat} {x : Span} (h : overlapsOther s k x = false)
    {j : Nat} {d : Context} {y : Span} (hj : j ≠ k) (hd : s.ctxs[j]? = some d)
    (hy : flightSpan d = some y) : y.overlaps x = false := by
  unfold overlapsOther at h
  have hlt : j < s.ctxs.length := (List.getElem?_eq_some_iff.mp hd).1
  have := (List.any_eq_false.mp h) j (List.mem_range.mpr hlt)
  simpa [hj, hd, hy] using this

/-- A register read leaves the state alone but for the reply, or sets BUSYVIOL, or ends the ownership of the buffers. -/
theorem readRegister_cases (s : State) (k : Nat) (c : Context) (r : CtxReg) :
    (∃ v, readRegister s k c r = { s with reply := .word v }) ∨
    (busy c = true ∧ r ≠ .status ∧ r ≠ .reserved ∧ readRegister s k c r = refuseBusy s k c (.word 0)) ∨
    (busy c = false ∧ r = .status ∧
      readRegister s k c r = { setCtx s k { c with owned := [] } with reply := .word (statusWord c) }) := by
  cases hb : busy c <;> cases r <;> simp [readRegister, hb]

/-- A register write starts a command, writes one operand register, sets BUSYVIOL, or changes nothing but the reply. -/
theorem writeRegister_next {s t : State} {k : Nat} {c : Context} {r : CtxReg} {v : Word}
    (h : writeRegister s k c r v = .next t) :
    t = { s with reply := .none } ∨
    (busy c = true ∧ r ≠ .reserved ∧ t = refuseBusy s k c .none) ∨
    (busy c = false ∧ r = .cmd ∧ acceptCommand s k c v = .next t) ∨
    (busy c = false ∧ ∃ d, t = { setCtx s k d with reply := .none } ∧
      (d = { c with arg0 := v } ∨ d = { c with arg1 := v } ∨ d = { c with bufAddr := v } ∨
        d = { c with len := v })) := by
  cases hb : busy c <;> cases r <;> simp [writeRegister, hb] at h ⊢ <;> first
    | exact h.symm
    | exact .inl h.symm
    | exact .inr h.symm
    | exact .inr (.inl h)
    | exact .inr ⟨_, h.symm, by simp⟩

/-- A host access to BUFMEM that is not stopped names bytes that exist and that no engine owns. -/
theorem memAccess_next {s t u : State} {x : Span} (h : memAccess s x t = .next u) :
    x.start + x.len ≤ bufMemSize s.params ∧ racesWith s x = false ∧ u = t := by
  unfold memAccess at h
  split at h
  · cases h
  split at h
  · cases h
  · next hf hr => exact ⟨not_lt.mp hf, by simpa using hr, (Host.Outcome.next.inj h).symm⟩

theorem memAccess_eq {s : State} {x : Span} (t : State) (hf : x.start + x.len ≤ bufMemSize s.params)
    (hr : racesWith s x = false) : memAccess s x t = .next t := by
  simp [memAccess, not_lt.mpr hf, hr]

end Sys2Proof.Machine
end

