-- ==== Sys2Proof/Laws/Step.lean ====
section
/-! SUPPORT. What performing a command, and one step, can do, said once. -/

namespace Sys2Proof.Machine

/-- Performing: an idle context changes nothing, an illegal word ends with IllegalCommand, a command runs. -/
theorem perform_next {s t : State} {k : Nat} (h : perform s k = .next t) :
    ∃ c, s.ctxs[k]? = some c ∧
      ((c.pending = none ∧ t = s) ∨
        ∃ w, c.pending = some w ∧
          ((∃ e, decode w = .error e ∧ t = raiseError { s with active := k } c .illegalCommand) ∨
            ∃ i, decode w = .ok i ∧ exec i { s with active := k } = .next t)) := by
  unfold perform at h
  split at h
  · cases h
  next c hc =>
  refine ⟨c, hc, ?_⟩
  split at h
  · next hp => exact .inl ⟨hp, (Host.Outcome.next.inj h).symm⟩
  next w hp =>
  refine .inr ⟨w, hp, ?_⟩
  split at h
  · next e he => exact .inl ⟨e, he, (Host.Outcome.next.inj h).symm⟩
  · next i hi => exact .inr ⟨i, hi, h⟩

/-- Performing changes only the context, BUFMEM and which context is active. -/
theorem perform_frame {s t : State} {k : Nat} (h : perform s k = .next t) :
    t = s ∨ ∃ c d m r, s.ctxs[k]? = some c ∧ c.SameRegisters d ∧
      t = endCommand { s with active := k } d m r := by
  obtain ⟨c, hc, ⟨-, ht⟩ | ⟨w, -, ⟨e, -, ht⟩ | ⟨i, -, hi⟩⟩⟩ := perform_next h
  · exact .inl ht
  · exact .inr ⟨c, c, _, _, hc, .rfl' c, ht⟩
  · obtain ⟨c', d, m, r, hc', hd, ht⟩ := exec_next hi
    exact .inr ⟨c', d, m, r, hc', hd, ht⟩

/-- The context `firstBusy` finds has a command in flight. -/
theorem firstBusy_some {cs : List Context} {k : Nat} (h : firstBusy cs = some k) :
    ∃ c, cs[k]? = some c ∧ busy c = true := by
  obtain ⟨hk, hb, -⟩ := List.findIdx?_eq_some_iff_getElem.mp h
  exact ⟨cs[k], List.getElem?_eq_getElem hk, hb⟩

/-- One step: the next stage of block reset, an event of the agenda, or, with no event left, a command in flight or nothing. -/
theorem step_next {s t : State} (h : step s = .next t) :
    (s.phase ≠ .running ∧ t = resetStage s) ∨
    (s.phase = .running ∧ ∃ e es, s.agenda = e :: es ∧ runEvent { s with agenda := es } e = .next t) ∨
    (s.phase = .running ∧ s.agenda = [] ∧ firstBusy s.ctxs = none ∧ t = s) ∨
    (s.phase = .running ∧ s.agenda = [] ∧ ∃ k, firstBusy s.ctxs = some k ∧ perform s k = .next t) := by
  unfold step stepState at h
  split at h
  · next hp =>
    right
    split at h
    · next ha =>
      right
      unfold drain at h
      split at h
      · next hb => exact .inl ⟨hp, ha, hb, (Host.Outcome.next.inj h).symm⟩
      · next k hb => exact .inr ⟨hp, ha, k, hb, h⟩
    · next e es ha => exact .inl ⟨hp, e, es, ha, h⟩
  · next hp => exact .inl ⟨hp, (Host.Outcome.next.inj h).symm⟩

theorem step_event {s : State} {e : Event} {es : List Event} (hp : s.phase = .running)
    (ha : s.agenda = e :: es) : step s = runEvent { s with agenda := es } e := by
  simp [step, stepState, hp, ha]

/-- Outside reset, a step takes the agenda's first event. -/
theorem step_cons {s : State} {e : Event} {es : List Event} (hp : s.phase = .running) :
    step { s with agenda := e :: es } = runEvent { s with agenda := es } e := by
  simp [step, stepState, hp]

/-- A host register read that is answered. -/
theorem hostRegRead_next {s t : State} {addr width : Nat} (h : hostRegRead s addr width = .next t) :
    (∃ off, locate s.params addr = some (.capability, off) ∧
      t = { s with reply := .word (capValue (capWindow s) (capReg off)) }) ∨
    ∃ k off c, locate s.params addr = some (.context k, off) ∧ s.ctxs[k]? = some c ∧
      t = readRegister s k c (ctxReg off) := by
  obtain ⟨-, -, ⟨w, off⟩, hx, h⟩ := regAccess_next h
  cases w with
  | capability => exact .inl ⟨off, hx, (Host.Outcome.next.inj h).symm⟩
  | context k =>
    dsimp only at h
    split at h
    · cases h
    · next c hc => exact .inr ⟨k, off, c, hx, hc, (Host.Outcome.next.inj h).symm⟩

/-- A host register write that is answered. -/
theorem hostRegWrite_next {s t : State} {addr width : Nat} {v : Word}
    (h : hostRegWrite s addr width v = .next t) :
    ((∃ off, locate s.params addr = some (.capability, off)) ∧ t = { s with reply := .none }) ∨
    ∃ k off c, locate s.params addr = some (.context k, off) ∧ s.ctxs[k]? = some c ∧
      writeRegister s k c (ctxReg off) v = .next t := by
  obtain ⟨-, -, ⟨w, off⟩, hx, h⟩ := regAccess_next h
  cases w with
  | capability => exact .inl ⟨⟨off, hx⟩, (Host.Outcome.next.inj h).symm⟩
  | context k =>
    dsimp only at h
    split at h
    · cases h
    · next c hc => exact .inr ⟨k, off, c, hx, hc, h⟩

end Sys2Proof.Machine
end

