-- ==== Sys2Proof/Laws/Observe.lean ====
section
/-! SUPPORT. What the capability window shows, and what the end of a run is, said once. -/

namespace Sys2Proof.Machine

@[simp] theorem capWindow_running {s : State} (h : s.phase = .running) : capWindow s = s.snap := by
  simp [capWindow, h]

@[simp] theorem capWindow_inReset {s : State} (h : s.phase ≠ .running) : capWindow s = Snapshot.zero := by
  unfold capWindow
  split
  · next hp => exact absurd hp h
  · rfl

@[simp] theorem observation_bufmem (s : State) : (observation s).bufmem = s.bufmem := rfl
@[simp] theorem observation_windows (s : State) :
    (observation s).windows = s.ctxs.map (windowRegisters s.params) := rfl
@[simp] theorem observation_contexts (s : State) : (observation s).contexts = s.ctxs.map contextView := rfl

/-- The registers of a window are those of its listed offsets. -/
theorem mem_windowRegisters {p : Params} {c : Context} {off : Nat} {v : Word} :
    (off, v) ∈ windowRegisters p c ↔ off ∈ contextOffsets ∧ v = regValue p c (ctxReg off) := by
  simp only [windowRegisters, List.mem_map, Prod.mk.injEq]
  constructor
  · rintro ⟨o, ho, rfl, rfl⟩
    exact ⟨ho, rfl⟩
  · rintro ⟨ho, rfl⟩
    exact ⟨off, ho, rfl, rfl⟩

/-- A run can end where no reset is in progress, no host access is left and no command is in flight. -/
theorem atEnd_iff {s : State} :
    atEnd s = true ↔ s.phase = .running ∧ hostDone s = true ∧ s.inFlight = 0 := by
  simp [atEnd, State.inFlight, List.countP_eq_zero, and_assoc]

/-- A run that can end ends at once, whatever events are left. -/
theorem runToEnd_here {s : State} (n : Nat) (h : atEnd s = true) : runToEnd n s = some s := by
  cases n <;> simp [runToEnd, h]

/-- A run that cannot end yet goes on with the next step. -/
theorem runToEnd_step {s t : State} (n : Nat) (h : atEnd s = false) (ht : step s = .next t) :
    runToEnd (n + 1) s = runToEnd n t := by
  simp [runToEnd, h, ht]

/-- The end of a run is reached by some steps, the run can end there, and it could end at no state before. -/
theorem runToEnd_some {n : Nat} {s t : State} (h : runToEnd n s = some t) :
    ∃ m ≤ n, Host.Core.run Sys2Proof.core m s = .next t ∧ atEnd t = true ∧
      ∀ j < m, ∀ u, Host.Core.run Sys2Proof.core j s = .next u → atEnd u = false := by
  induction n generalizing s with
  | zero =>
    unfold runToEnd at h
    split at h
    · next he =>
      cases h
      exact ⟨0, Nat.le_refl _, rfl, he, fun j hj => absurd hj (Nat.not_lt_zero _)⟩
    · cases h
  | succ n ih =>
    unfold runToEnd at h
    split at h
    · next he =>
      cases h
      exact ⟨0, Nat.zero_le _, rfl, he, fun j hj => absurd hj (Nat.not_lt_zero _)⟩
    next hne =>
    dsimp only at h
    split at h
    · next u hu =>
      obtain ⟨m, hm, hr, he, hf⟩ := ih h
      refine ⟨m + 1, Nat.succ_le_succ hm, ?_, he, ?_⟩
      · simp only [Host.Core.run, core, hu]
        exact hr
      · intro j hj v hv
        cases j with
        | zero =>
          cases hv
          simpa using hne
        | succ j =>
          simp only [Host.Core.run, core, hu] at hv
          exact hf j (Nat.lt_of_succ_lt_succ hj) v hv
    · cases h
    · cases h

end Sys2Proof.Machine
end

