-- ==== Sys2Proof/Laws/PerInstr.lean ====
section
/-! SUPPORT. Facts of each command as syntax, one lemma per constructor of `Instr`. -/

namespace Sys2Proof.Laws.EncodedFields

/-- The word of a well-formed command has its opcode in OPC and 0 in RSV (30_encoding.md R100, R104). -/
def Statement (i : Instr) : Prop :=
  WellFormed i → rsvField (encode i) = 0 ∧ 1 ≤ (opcField (encode i)).toNat ∧ (opcField (encode i)).toNat ≤ 7

theorem createDefault : Statement .createDefault := fun _ => by decide

theorem create (var : Nat) : Statement (.create var) := fun h => by
  have hv : var < 16 := by simpa [WellFormed, Instr.wellFormed] using h
  interval_cases var <;> decide

theorem genKey : Statement .genKey := fun _ => by decide

theorem genAltKey : Statement .genAltKey := fun _ => by decide

theorem encrypt : Statement .encrypt := fun _ => by decide

theorem decrypt : Statement .decrypt := fun _ => by decide

theorem resetCounters : Statement .resetCounters := fun _ => by decide

end Sys2Proof.Laws.EncodedFields
end

