-- ==== Sys2Proof/Tests/Slice0.lean ====
section
/-! SUPPORT. Tests from the spec's own examples (95_test_vectors.md), and for every statement a state and operands that meet its
hypotheses. -/

namespace Sys2Proof.Tests

open Sys2Proof.Machine

/-! ### Small states -/

/-- Two contexts, 64 KiB of BUFMEM, SSE2 and no AVX2, as in programs P3 of 95_test_vectors.md. -/
def demoParams : Params where
  extraContexts := 1
  bufMemLast := 0xFFFF
  blockBase := 0x4000
  capSse2 := true
  capAvx2 := false
  capVendor := ⟨vendorAmd, rfl⟩
  capBrand := Bytes.zero 48
  capOther := 5
  nameStandard := [0x53, 0x74, 0x64]
  nameVector128 := [0x56, 0x31]
  nameVector256 := [0x56, 0x32]
  defaultP := 0x13FA0F9D
  defaultG := 0x6D5C7962

/-- An engine of this kind with the default key and a latched buffer. -/
def demoCtx (kind : Kind) (addr len : Word) : Context :=
  construct demoParams { Context.reset with lAddr := addr, lLen := len } kind

/-- The state after reset with context 0 replaced. -/
def demo (c : Context) : State := setCtx (State.resetWith demoParams) 0 c

/-- The same with bytes in BUFMEM. -/
def demoMem (c : Context) (a : Nat) (bs : List Byte) : State :=
  { demo c with bufmem := Memory.writeBytes [] a bs }

/-- `c` with the command word `w` in flight. -/
def started (c : Context) (w : Word) : Context := { c with pending := some w }

/-- Context 0 performs next. -/
def performing (c : Context) : State := { demo c with agenda := [.perform 0] }

/-- The state an outcome answers; the given one where it stops. -/
def after (s : State) (o : Host.Outcome State Fault Refusal) : State :=
  match o with
  | .next t => t
  | .fault _ => s
  | .refused _ => s

/-- Context 0 of a state. -/
def ctx0 (s : State) : Context := s.ctxs.headD Context.reset

/-- The STATUS a command of context 0 leaves. -/
def statusAfter (i : Instr) (c : Context) : Word := statusWord (ctx0 (after (demo c) (exec i (demo c))))

/-- The default key of a kind. -/
def defaultKey (kind : Kind) : Key := baseKey kind 0x13FA0F9D 0x6D5C7962

/-! ### Well-formedness -/

/-- A variant code that does not fit the 4 bits of VAR is refused. -/
theorem test_wellFormed_refuses_wide_variant : ¬ WellFormed (.create 16) := by decide

theorem test_wellFormed_accepts_unknown_variant : WellFormed (.create 15) := by decide

/-! ### Decoding: words written out bit by bit from 30_encoding.md R100, RSV VAR OPC -/

theorem test_decode_createDefault :
    decode 0b00000000000000000000_0000_00000001 = .ok .createDefault := by decide

theorem test_decode_create :
    decode 0b00000000000000000000_0010_00000010 = .ok (.create 2) := by decide

theorem test_decode_create_unknown :
    decode 0b00000000000000000000_1111_00000010 = .ok (.create 15) := by decide

theorem test_decode_genKey :
    decode 0b00000000000000000000_0000_00000011 = .ok .genKey := by decide

theorem test_decode_genAltKey :
    decode 0b00000000000000000000_0000_00000100 = .ok .genAltKey := by decide

theorem test_decode_encrypt :
    decode 0b00000000000000000000_0000_00000101 = .ok .encrypt := by decide

theorem test_decode_decrypt :
    decode 0b00000000000000000000_0000_00000110 = .ok .decrypt := by decide

theorem test_decode_resetCounters :
    decode 0b00000000000000000000_0000_00000111 = .ok .resetCounters := by decide

/-- The illegal words of V14. -/
theorem test_decode_illegal :
    ([0x00000000, 0x00001002, 0x00000105, 0x00000008, 0x000000FF, 0x80000005] : List Word).all
      (fun w => decide (IllegalWord w) && decodeTableWord 32 w.toNat == none) = true := by decide

/-! ### Key generation -/

/-- V2. -/
theorem test_keygen_default_start :
    (keygen1 0x13FA0F9D).toList.take 4 = [0x9D, 0x90, 0x83, 0x8A] ∧
    (keygen2 0x6D5C7962).toList.take 4 = [0x62, 0x4F, 0xE8, 0x15] := by decide +kernel

/-- V2, the last row of each half. -/
theorem test_keygen_default_end :
    (keygen1 0x13FA0F9D).toList.drop 252 = [0x89, 0x34, 0xBF, 0x3E] ∧
    (keygen2 0x6D5C7962).toList.drop 252 = [0xA6, 0xF3, 0x8C, 0xD9] := by decide +kernel

/-- V3, row 3. -/
theorem test_keygen_corner_seed :
    (keygen1 0x01020304).toList.drop 248 = [0xDC, 0xB5, 0x12, 0xBF, 0x40, 0xC1, 0x46, 0x1B] ∧
    (keygen2 0x01020304).toList.drop 248 = [0xEC, 0xA5, 0x3E, 0xB3, 0xC8, 0xD9, 0xAA, 0x37] := by decide +kernel

/-- V4: the 32-bit wrap of A + B, and the last bytes of row 5. -/
theorem test_altDerive :
    altX 0xFFFFFFFF 0x00000001 = 0xFFFFBCDE ∧ altY 0xFFFFFFFF 0x00000001 = 0x119AD084 ∧
    (altKey .standard (defaultKey .standard) 0x12345678 0x9ABCDEF0).k1.toList.drop 255 = [0x80] ∧
    (altKey .standard (defaultKey .standard) 0x12345678 0x9ABCDEF0).k2.toList.drop 255 = [0x92] := by decide +kernel

/-- GEN_KEY with P = G = 0xFFFFFFFF (V3, row 2) in a Vector128 context: the wrap window follows the half. -/
theorem test_genKey :
    let c := { demoCtx .vector128 0 0 with lArg0 := 0xFFFFFFFF, lArg1 := 0xFFFFFFFF, encCtr := 7 }
    let d := ctx0 (after (demo c) (exec .genKey (demo c)))
    d.base.k2.toList.take 2 = [0xFF, 0x01] ∧ d.base.wrap1.length = 15 ∧ d.encCtr = 7 := by decide +kernel

/-- V4, row 1, and the side effects of V5. -/
theorem test_genAltKey :
    let c := { demoCtx .standard 0 0 with lArg0 := 0x1234, lArg1 := 0x5678, encCtr := 0x123, decCtr := 0x456 }
    let d := ctx0 (after (demo c) (exec .genAltKey (demo c)))
    d.alt.k1.toList.take 4 = [0x24, 0xA9, 0x83, 0x8A] ∧ d.alt.k2.toList.take 4 = [0xD3, 0xA8, 0xEB, 0x18] ∧
    d.useAlt = true ∧ d.encCtr = 0 ∧ d.decCtr = 0x456 := by decide +kernel

/-! ### The stream transform -/

/-- V1, rows 3, 5 and 6. -/
theorem test_cipherByte :
    cipherByte 0x41 0x0001 (defaultKey .standard) = 0x5C ∧ cipherByte 0x5A 0xFFFF (defaultKey .standard) = 0xF8 ∧
    cipherByte 0xAB 0x1234 (defaultKey .standard) = 0xD9 := by decide +kernel

/-- V7: a Vector128 block that straddles a multiple of 256. -/
theorem test_vector128_split_window :
    engineTransform .vector128 (defaultKey .vector128) 0x00F8 (List.replicate 16 0) =
      ([0x4D, 0xA0, 0x43, 0xCA, 0x51, 0xEC, 0x67, 0xE6, 0x68, 0x65, 0x76, 0x7F, 0x24, 0x79, 0x12, 0x03], 0x0108) := by
  decide +kernel

/-- V8: a Vector256 block over the top of the counter, K2X[256] from the wrap window. -/
theorem test_vector256_counter_wrap :
    engineTransform .vector256 (defaultKey .vector256) 0xFFF0 (List.replicate 32 0) =
      ([0x6E, 0x83, 0x50, 0x79, 0xA2, 0x3F, 0x74, 0x65, 0xF6, 0x1B, 0xF8, 0x71, 0xEA, 0x57, 0xDC, 0x5D,
        0x45, 0x48, 0x5B, 0x52, 0x09, 0x54, 0x3F, 0x2E, 0xFD, 0xF0, 0x33, 0x5A, 0x41, 0xBC, 0x57, 0xF6], 0x0010) := by
  decide +kernel

/-- R192's example bytes through both lane forms; V11's inverse. -/
theorem test_vrot_invByte :
    vrot 0x12 = 0x21 ∧ vrotLane16 0xABF0 = 0xBA0F ∧ invByte 0x51 0 (defaultKey .standard) = 0x41 := by decide +kernel

/-- R184's worked example. -/
theorem test_encrypt :
    let s := demoMem (demoCtx .vector128 0x1000 4) 0x1000 [0x41, 0x42, 0x43, 0x44]
    let t := after s (exec .encrypt s)
    Memory.readBytes t.bufmem 0x1000 4 = [0x51, 0x6C, 0x6F, 0x16] ∧ (ctx0 t).encCtr = 4 ∧ (ctx0 t).decCtr = 0 := by
  decide +kernel

/-- R185's worked example: the alternate key of V4 row 1. -/
theorem test_decrypt :
    let c := { demoCtx .standard 0x1000 4 with
      alt := altKey .standard (defaultKey .standard) 0x1234 0x5678, useAlt := true }
    let s := demoMem c 0x1000 [0x41, 0x42, 0x43, 0x44]
    let t := after s (exec .decrypt s)
    Memory.readBytes t.bufmem 0x1000 4 = [0x59, 0xE4, 0xDE, 0xA7] ∧ (ctx0 t).decCtr = 4 ∧ (ctx0 t).encCtr = 0 := by
  decide +kernel

/-- V12. -/
theorem test_resetCounters :
    let c := { demoCtx .standard 0 0 with encCtr := 0x012C, decCtr := 0x0004, useAlt := true }
    let d := ctx0 (after (demo c) (exec .resetCounters (demo c)))
    d.encCtr = 0 ∧ d.decCtr = 0 ∧ d.useAlt = true := by decide +kernel

/-- V16 with BUFMEM_SIZE = 0x10000: null, negative, past the end, the last four bytes. -/
theorem test_checkBuffer :
    checkBuffer demoParams (demoCtx .standard 0 4) = some .invalidArgument ∧
    checkBuffer demoParams (demoCtx .standard 0x1000 0x80000000) = some .invalidArgument ∧
    checkBuffer demoParams (demoCtx .standard 0xFFFFFFFF 1) = some .accessFault ∧
    checkBuffer demoParams (demoCtx .standard 0xFFFC 4) = none := by decide +kernel

/-! ### Selection and errors -/

/-- R233's worked example: SSE2 without AVX2 gives Vector128, INFO 0x00001011. -/
theorem test_createDefault :
    infoWord (ctx0 (after (demo Context.reset) (exec .createDefault (demo Context.reset)))) = 0x00001011 := by
  decide +kernel

/-- P3, steps 2 and 3: UnsupportedVariant and UnknownVariant, each with the sticky bit. -/
theorem test_create_fails :
    statusAfter (.create 2) Context.reset = 0x00000110 ∧ statusAfter (.create 5) (demoCtx .standard 0 0) = 0x00000120 := by
  decide +kernel

/-- R263's example and P3, step 1: ENCRYPT with LEN = 0 in state NONE ends with NotCreated. -/
theorem test_encrypt_not_created : statusAfter .encrypt Context.reset = 0x00000150 := by decide +kernel

/-- The word 0x105 ends with IllegalCommand (P3, step 5; ERR_STICKY was 0 here). -/
theorem test_step_illegal_word :
    let s := performing (started (demoCtx .standard 0 0) 0x00000105)
    statusWord (ctx0 (after s (step s))) = 0x00000140 := by decide +kernel

/-- The host's first command after reset runs at the next step. -/
theorem test_withFetchWord_runs :
    let s := State.reset.withFetchWord 32 0x00000005
    (ctx0 (after s (step s))).code = .notCreated := by decide

/-- P3, step 1, and the end of the run (R322): a reset left over after the last access is no part of it. -/
theorem test_observeRun :
    let s := { performing (started Context.reset 0x00000005) with agenda := [.perform 0, .blockReset] }
    (observeRun 3 s).map (fun o => (o.windows.map (·.head?), o.contexts.map (·.code))) =
      some ([some (0x00, 0), some (0x00, 0)], [.notCreated, .ok]) := by decide +kernel

/-! ### Witnesses: a state and operands that meet the hypotheses of each statement -/

/-- The contexts of a small state. -/
theorem mem_demo {c d : Context} (h : d ∈ (demo c).ctxs) : d = c ∨ d = Context.reset := by
  have h : d ∈ [c, Context.reset] := h
  simpa using h

/-- A context without an engine, with no command in flight, has the invariant. -/
theorem reset_context_inv : Context.reset.Inv :=
  ⟨fun _ => ⟨rfl, rfl, rfl, rfl, rfl, rfl⟩, ⟨rfl, rfl⟩, ⟨rfl, rfl⟩, fun _ => rfl, fun x h => (by cases h)⟩

/-- A small state has the invariant when its context 0 has it. -/
theorem demo_inv_of {c : Context} (h : c.Inv) : (demo c).Inv where
  names := (by decide : demoParams.wf)
  memory := (by decide : Memory.wf [])
  inRange := by intro x hx; cases hx
  count := rfl
  active := (by decide : 0 < nCtx demoParams)
  contexts := by
    intro d hd
    rcases mem_demo hd with rfl | rfl
    · exact h
    · exact reset_context_inv
  snapshot := rfl

/-- The default engine of a kind with its buffer has the invariant. -/
theorem demo_inv (kind : Kind) (addr len : Word) : (demo (demoCtx kind addr len)).Inv :=
  demo_inv_of ⟨fun h => (by cases h), ⟨rfl, rfl⟩, ⟨rfl, rfl⟩, fun _ => rfl, fun x h => (by cases h)⟩

/-- For DecodeOfEncodeIsTheCommand: the largest code VAR holds. -/
theorem witness_wellFormed : WellFormed (.create 15) ∧ WellFormed .resetCounters := by decide

/-- For DecodedWordsAreTheirEncodings. -/
theorem witness_decode : decode 0x00000F02 = .ok (.create 15) := by decide

/-- For IllegalWordEndsWithIllegalCommand: each way of being illegal, at the edge of its range. -/
theorem witness_illegal_word (w : Word)
    (hw : w = 0x00001002 ∨ w = 0x00000000 ∨ w = 0x00000008 ∨ w = 0x00000103) :
    let s := performing (started (demoCtx .standard 0 0) w)
    s.phase = .running ∧ s.agenda = .perform 0 :: [] ∧ s.ctxs[0]? = some (started (demoCtx .standard 0 0) w) ∧
    (started (demoCtx .standard 0 0) w).pending = some w ∧ IllegalWord w := by
  refine ⟨rfl, rfl, rfl, rfl, ?_⟩
  rcases hw with rfl | rfl | rfl | rfl <;> decide

/-- For StepRunsTheDecodedCommand and FirstErrorIsReported. -/
theorem witness_performing :
    let c := started (demoCtx .standard 0x1000 4) 0x00000005
    (performing c).phase = .running ∧ (performing c).agenda = .perform 0 :: [] ∧ (performing c).ctxs[0]? = some c ∧
    c.pending = some 0x00000005 ∧ decode 0x00000005 = .ok .encrypt := ⟨rfl, rfl, rfl, rfl, by decide⟩

/-- For FirstErrorIsReported: a word for each code of R263's order. -/
theorem witness_each_error :
    let snap := detect demoParams
    firstError demoParams snap Context.reset 0 = .illegalCommand ∧
    firstError demoParams snap Context.reset 3 = .notCreated ∧
    firstError demoParams snap Context.reset 0x302 = .unknownVariant ∧
    firstError demoParams snap Context.reset 0x202 = .unsupportedVariant ∧
    firstError demoParams snap (demoCtx .standard 0 4) 5 = .invalidArgument ∧
    firstError demoParams snap (demoCtx .standard 0xFFFD 4) 6 = .accessFault ∧
    firstError demoParams snap (demoCtx .standard 0xFFFC 4) 6 = .ok := by decide +kernel

/-- For FetchedWordRunsNext. -/
theorem witness_fetched :
    (demo Context.reset).ctxs = Context.reset :: [Context.reset] ∧ 0xF02 < 2 ^ 32 ∧
    decodeTableWord 32 0xF02 = some (.create 15) := ⟨rfl, by decide, by decide⟩

/-- For EmptyAgendaDrainsToTheEnd: a command is in flight and nothing is left; nothing is in flight and a step of the last
context and a block reset are left. -/
theorem witness_drain :
    (let s := demo (started Context.reset 1)
     s.phase = .running ∧ hostDone s = true ∧ (∀ k, .perform k ∈ s.agenda → k < s.ctxs.length) ∧
      s.agenda = [] ∧ s.inFlight = 1) ∧
    (let s := { demo Context.reset with agenda := [.perform 1, .blockReset] }
     s.phase = .running ∧ hostDone s = true ∧ (∀ k, .perform k ∈ s.agenda → k < s.ctxs.length) ∧ s.inFlight = 0) := by
  refine ⟨⟨rfl, rfl, ?_, rfl, by decide⟩, rfl, rfl, ?_, by decide⟩
  · intro k hk
    cases hk
  · intro k hk
    have : k = 1 := by simpa using hk
    rw [this]
    decide

/-- For EveryCommandEnds, CreateDefaultConstructsTheBest and CreateConstructsTheVariant. -/
theorem witness_context :
    (demo Context.reset).ctxs[(demo Context.reset).active]? = some Context.reset ∧
    supported (demo Context.reset).snap .vector128 = true ∧ supported (demo Context.reset).snap .standard = true :=
  ⟨rfl, rfl, rfl⟩

/-- For MissingContextIsRefused: the first number that is no context. -/
theorem witness_missing_context :
    let s := { demo Context.reset with active := 2 }
    s.ctxs.length ≤ s.active := by decide

/-- For CommandFrame: the command answers a next state, with another context beside it. -/
theorem witness_command_frame :
    let s := demo (demoCtx .standard 0 0)
    exec .resetCounters s = .next (endCommand s (demoCtx .standard 0 0) [] .ok) ∧
    s.ctxs[s.active]? = some (demoCtx .standard 0 0) ∧
    (endCommand s (demoCtx .standard 0 0) [] .ok).ctxs[s.active]? = some (withResult (demoCtx .standard 0 0) .ok) ∧
    (1 ≠ s.active) ∧ s.ctxs[1]? = some Context.reset := ⟨rfl, rfl, rfl, by decide, rfl⟩

/-- For KeygenFollowsTheRecurrence: the last index, in both halves. -/
theorem witness_keygen_last :
    (254 < 255) ∧ (keygen1 0x13FA0F9D).toList[254]? = some 0xBF ∧ (keygen2 0x6D5C7962).toList[254]? = some 0x8C := by
  decide +kernel

/-- For GenKeyWritesTheBaseKey, GenAltKeyWritesTheAlternateKey and ResetCountersClearsBoth. -/
theorem witness_created (kind : Kind) :
    let c := demoCtx kind 0 0
    (demo c).ctxs[(demo c).active]? = some c ∧ c.created = true := ⟨rfl, rfl⟩

/-- For GenAltKeyAgainChangesNothing. -/
theorem witness_genAltKey_next :
    let s := demo (demoCtx .standard 0 0)
    s.ctxs[s.active]? = some (demoCtx .standard 0 0) ∧ (demoCtx .standard 0 0).created = true ∧
    ∃ t, exec .genAltKey s = .next t := ⟨rfl, rfl, _, rfl⟩

/-- For TransformIsBytewise: the last byte of a buffer. -/
theorem witness_buffer_byte : ([1, 2, 3] : List Byte)[2]? = some 3 := rfl

/-- For VectorFormEqualsReference: both widths. -/
theorem witness_wrapped :
    Kind.vector128 ≠ .standard ∧ (defaultKey .vector128).wrapped .vector128 ∧
    Kind.vector256 ≠ .standard ∧ (defaultKey .vector256).wrapped .vector256 :=
  ⟨by decide, ⟨rfl, rfl⟩, by decide, ⟨rfl, rfl⟩⟩

/-- For EncryptTransformsTheBuffer and DecryptTransformsTheBuffer: the last four bytes of BUFMEM. -/
theorem witness_stream :
    let c := demoCtx .vector128 0xFFFC 4
    (demo c).Inv ∧ (demo c).ctxs[(demo c).active]? = some c ∧ c.created = true ∧ c.lAddr ≠ 0 ∧ 0 < c.lLen.toInt ∧
    bufferAddr c + bufferCount c ≤ bufMemSize (demo c).params :=
  ⟨demo_inv _ _ _, rfl, rfl, by decide, by decide, by decide⟩

/-- For DecryptTransformsTheBuffer: a context that holds an alternate key, USE_ALT = 1. -/
theorem witness_stream_alt :
    let c := { demoCtx .vector128 0xFFFC 4 with
      alt := altKey .vector128 (defaultKey .vector128) 0x1234 0x5678, useAlt := true }
    (demo c).Inv ∧ (demo c).ctxs[(demo c).active]? = some c ∧ c.created = true ∧ c.useAlt = true ∧ c.lAddr ≠ 0 ∧
    0 < c.lLen.toInt ∧ bufferAddr c + bufferCount c ≤ bufMemSize (demo c).params := by
  refine ⟨demo_inv_of ?_, rfl, rfl, rfl, by decide, by decide, by decide⟩
  exact ⟨fun h => (by cases h), ⟨rfl, rfl⟩, altKey_wrapped _ _ _ _, fun _ => rfl, fun x h => (by cases h)⟩

/-- For BufferChecksStopTheCommand: both clauses, each at the edge of its range. -/
theorem witness_buffer_checks :
    (demoCtx .standard 1 0).lLen.toInt ≤ 0 ∧ (demoCtx .standard 0 1).lAddr = 0 ∧
    (let c := demoCtx .standard 0xFFFF 2
     (demo c).ctxs[(demo c).active]? = some c ∧ c.created = true ∧ c.lAddr ≠ 0 ∧ 0 < c.lLen.toInt ∧
      (bufMemSize (demo c).params : Int) < c.lAddr.toNat + c.lLen.toNat) :=
  ⟨by decide, by decide, rfl, rfl, by decide, by decide, by decide⟩

/-- For StreamContinuity: two parts that end with BUFMEM. -/
theorem witness_continuity :
    let c := demoCtx .vector128 0 0
    (demo c).Inv ∧ (demo c).ctxs[(demo c).active]? = some c ∧ c.created = true ∧ 0 < 0xFF00 ∧ 0 < 250 ∧ 0 < 6 ∧
    250 + 6 < 2 ^ 31 ∧ 0xFF00 + 250 + 6 ≤ bufMemSize (demo c).params :=
  ⟨demo_inv _ _ _, rfl, rfl, by decide, by decide, by decide, by decide, by decide⟩

/-- For FailedCreateLeavesNoEngine: the lowest unknown code, and variant 2 on a CPU without AVX2. -/
theorem witness_create_fails :
    let s := demo (demoCtx .standard 0 0)
    s.ctxs[s.active]? = some (demoCtx .standard 0 0) ∧
    (3 ≤ 3 ∧ ResultCode.unknownVariant = .unknownVariant) ∧ (2 = 2 ∧ s.snap.avx2 = false) ∧
    3 ≤ (opcField (encode .genKey)).toNat ∧ (∀ v, Instr.genKey ≠ .create v) :=
  ⟨rfl, by decide, ⟨rfl, rfl⟩, by decide, by simp⟩

/-- For FailedCreateLeavesNoEngine: variant 1 in a block whose CPU lacks SSE2. -/
theorem witness_create_fails_sse2 :
    let s := State.resetWith { demoParams with capSse2 := false }
    s.ctxs[s.active]? = some Context.reset ∧ (1 = 1 ∧ s.snap.sse2 = false) ∧
    3 ≤ (opcField (encode .resetCounters)).toNat ∧ (∀ v, Instr.resetCounters ≠ .create v) :=
  ⟨rfl, ⟨rfl, rfl⟩, by decide, by simp⟩

/-- For EngineCommandsNeedAnEngine: the lowest and the highest opcode. -/
theorem witness_no_engine :
    (demo Context.reset).ctxs[(demo Context.reset).active]? = some Context.reset ∧ Context.reset.created = false ∧
    3 ≤ (opcField (encode .genKey)).toNat ∧ 3 ≤ (opcField (encode .resetCounters)).toNat ∧
    (∀ var, Instr.genKey ≠ .create var) ∧ (∀ var, Instr.resetCounters ≠ .create var) :=
  ⟨rfl, rfl, by decide, by decide, by simp, by simp⟩

/-- A context with both sticky bits set. -/
def stickyCtx : Context := { Context.reset with code := .notCreated, errSticky := true, busyViol := true }

/-- For StickyBitsFallOnlyInReset: both bits set, and a step. -/
theorem witness_sticky :
    (demo stickyCtx).phase ≠ .contexts ∧ step (demo stickyCtx) = .next (demo stickyCtx) ∧
    (demo stickyCtx).ctxs[0]? = some stickyCtx ∧ stickyCtx.errSticky = true ∧ stickyCtx.busyViol = true :=
  ⟨by decide, rfl, rfl, rfl, rfl⟩

/-- For BusyAccessesAreRecorded: context 1's last register, CMD, and STATUS. -/
theorem witness_busy_access :
    let c := started Context.reset 1
    let s := setCtx (demo Context.reset) 1 c
    s.phase = .running ∧ s.ctxs[1]? = some c ∧ 1 < nCtx s.params ∧ c.pending ≠ none ∧
    (∀ off ∈ [0x00, 0x04, 0x5C], off < 0x100 ∧ (s.params.blockBase + 0x100 * (1 + 1) + off) % 4 = 0 ∧
      ctxReg off ≠ .reserved) ∧
    ctxReg 0x5C ≠ .status ∧ ctxReg 0x04 = .status :=
  ⟨rfl, rfl, by decide, by decide, by decide, by decide, by decide⟩

/-- For OperandRegistersReadBack, ReadOnlyRegistersIgnoreWrites and RegisterReadsReturnTheState: an idle context and an aligned
register in each list, at its ends. -/
theorem witness_idle_access :
    let s := demo Context.reset
    s.phase = .running ∧ s.ctxs[1]? = some Context.reset ∧ 1 < nCtx s.params ∧ Context.reset.pending = none ∧
    ∀ off ∈ [0x00, 0x04, 0x08, 0x0C, 0x10, 0x14, 0x18, 0x1C, 0x20, 0x40, 0x5C],
      (s.params.blockBase + 0x100 * (1 + 1) + off) % 4 = 0 :=
  ⟨rfl, rfl, by decide, rfl, by decide⟩

/-- For CommandWriteStartsAndLatches: an ENCRYPT beside another context's, their buffers side by side. -/
theorem witness_command_write :
    let c := { Context.reset with bufAddr := 0x1004, len := 4 }
    let d := started (demoCtx .standard 0x1000 4) 0x00000005
    let s := setCtx (demo d) 1 c
    s.phase = .running ∧ s.ctxs[1]? = some c ∧ 1 < nCtx s.params ∧ c.pending = none ∧
    (s.params.blockBase + 0x100 * (1 + 1)) % 4 = 0 ∧
    commandSpan 0x00000005 c.bufAddr c.len = some ⟨0x1004, 4⟩ ∧ flightSpan d = some ⟨0x1000, 4⟩ ∧
    (⟨0x1000, 4⟩ : Span).overlaps ⟨0x1004, 4⟩ = false :=
  ⟨rfl, rfl, by decide, rfl, by decide, by decide, by decide, by decide⟩

/-- For ReservedOffsetsDoNothing: the first and the last reserved words, in a busy context. -/
theorem witness_reserved :
    let c := started Context.reset 1
    (demo c).ctxs[0]? = some c ∧ 0 < nCtx (demo c).params ∧
    ∀ off ∈ [0x24, 0x3C, 0x60, 0xFC], off < 0x100 ∧
      off ∉ [0x00, 0x04, 0x08, 0x0C, 0x10, 0x14, 0x18, 0x1C, 0x20, 0x40, 0x44, 0x48, 0x4C, 0x50, 0x54, 0x58, 0x5C] ∧
      ((demo c).params.blockBase + 0x100 * (0 + 1) + off) % 4 = 0 :=
  ⟨rfl, by decide, by decide⟩

/-- For NameRegisterBytes: the last byte. -/
theorem witness_names : demoParams.wf ∧ 31 < 32 := by decide

/-- For VendorAndBrandBytes and CapabilityFlagBits: right after reset, and in each stage of block reset. -/
theorem witness_capability_stages :
    let s := State.resetWith demoParams
    let run := fun n => after s (Host.Core.run Sys2Proof.core n { s with agenda := [.blockReset] })
    (s.snapshotOk ∧ s.phase = .running) ∧ ((run 1).snapshotOk ∧ (run 1).phase = .contexts) ∧
    ((run 2).snapshotOk ∧ (run 2).phase = .detect) ∧ ((run 3).snapshotOk ∧ (run 3).phase = .finish) ∧
    11 < 12 ∧ 47 < 48 ∧ 127 < 128 := by
  refine ⟨⟨rfl, rfl⟩, ⟨rfl, rfl⟩, ⟨rfl, rfl⟩, ⟨rfl, rfl⟩, by decide, by decide, by decide⟩

/-- For CapabilityWindowIsReadOnly: aligned offsets at both ends, the last one reserved. -/
theorem witness_capability_window :
    (demo Context.reset).phase = .running ∧
    (∀ off ∈ [0x00, 0x04, 0x5C, 0xFC], off < 0x100 ∧ (demoParams.blockBase + off) % 4 = 0) ∧
    (0xFC ≠ 0x00 ∧ ¬ (0x10 ≤ 0xFC ∧ 0xFC ≤ 0x18) ∧ ¬ (0x20 ≤ 0xFC ∧ 0xFC ≤ 0x5C)) := ⟨rfl, by decide, by decide⟩

/-- For SnapshotIsImmutable. -/
theorem witness_snapshot :
    (demo Context.reset).phase = .running ∧ step (demo Context.reset) = .next (demo Context.reset) := ⟨rfl, rfl⟩

/-- For MalformedRegisterAccessIsRefused: both clauses. -/
theorem witness_malformed : (demo Context.reset).phase = .running ∧ 8 ≠ 4 ∧ 0x4103 % 4 ≠ 0 := by decide

/-- For HostBufferWritesReadBack: the last bytes of BUFMEM. -/
theorem witness_host_buffer :
    let s := demo Context.reset
    s.phase = .running ∧ 0xFFFE + ([1, 2] : List Byte).length ≤ bufMemSize s.params ∧
    racesWith s ⟨0xFFFE, 2⟩ = false := by decide

/-- A context whose engine owns four bytes. -/
def owningCtx : Context := { Context.reset with owned := [⟨0x1000, 4⟩] }

/-- For BufferRacesAreRefused: one byte, the buffer's last. -/
theorem witness_buffer_race :
    (demo owningCtx).phase = .running ∧ 0x1003 + ([7] : List Byte).length ≤ bufMemSize (demo owningCtx).params ∧
    (demo owningCtx).ctxs[0]? = some owningCtx ∧ (⟨0x1000, 4⟩ : Span) ∈ owningCtx.owned ∧
    0x1003 ≤ 0x1003 ∧ 0x1003 < 0x1003 + ([7] : List Byte).length ∧ 0x1000 ≤ 0x1003 ∧ 0x1003 < 0x1000 + 4 :=
  ⟨rfl, by decide, rfl, by decide, by decide, by decide, by decide, by decide⟩

/-- For OverlappingCommandsAreRefused: one common byte. -/
theorem witness_overlap :
    let c := { Context.reset with bufAddr := 0x1003, len := 4 }
    let d := started (demoCtx .standard 0x1000 4) 0x00000006
    let s := setCtx (demo d) 1 c
    s.phase = .running ∧ s.ctxs[1]? = some c ∧ 1 < nCtx s.params ∧ c.pending = none ∧
    (s.params.blockBase + 0x100 * (1 + 1)) % 4 = 0 ∧ s.ctxs[0]? = some d ∧
    commandSpan 0x00000005 c.bufAddr c.len = some ⟨0x1003, 4⟩ ∧ flightSpan d = some ⟨0x1000, 4⟩ ∧
    0x1003 ≤ 0x1003 ∧ 0x1003 < 0x1003 + 4 ∧ 0x1000 ≤ 0x1003 ∧ 0x1003 < 0x1000 + 4 :=
  ⟨rfl, rfl, by decide, rfl, by decide, rfl, by decide, by decide, by decide, by decide, by decide, by decide⟩

/-- For HostAccessesKeepTheEngines: an access that answers a next state. -/
theorem witness_host_access :
    let s := demo (demoCtx .standard 0 0)
    (∀ j, Event.memWrite 0x1000 [7] ≠ .perform j) ∧ Event.memWrite 0x1000 [7] ≠ .blockReset ∧
    runEvent s (.memWrite 0x1000 [7]) = .next { s with bufmem := [(0x1000, 7)], reply := .none } ∧
    s.ctxs[0]? = some (demoCtx .standard 0 0) := ⟨by simp, by simp, rfl, rfl⟩

/-- For KeysAndLatchesCannotBeRead: a register read and a BUFMEM read that are answered. -/
theorem witness_host_read :
    let s := demo Context.reset
    (∃ t, runEvent s (.regRead 0x4118 4) = .next t) ∧ (∃ t, runEvent s (.memRead 0x1000 4) = .next t) :=
  ⟨⟨_, rfl⟩, ⟨_, rfl⟩⟩

/-- A context whose ENCRYPT or DECRYPT of four bytes is in flight. -/
def flying (kind : Kind) (addr w : Word) : Context :=
  startCommand { demoCtx kind 0 0 with bufAddr := addr, len := 4 } w

/-- For DisjointCommandsCommute: an ENCRYPT and a DECRYPT in flight in two contexts, their buffers side by side. -/
theorem witness_commute :
    let c := flying .vector128 0x1000 5
    let d := flying .standard 0x1004 6
    let s := setCtx (demo c) 1 d
    s.Inv ∧ s.flightsDisjoint ∧ s.phase = .running ∧ 0 ≠ 1 ∧ 0 < nCtx s.params ∧ 1 < nCtx s.params ∧
    s.ctxs[0]? = some c ∧ flightSpan c = some ⟨0x1000, 4⟩ ∧ s.ctxs[1]? = some d ∧ flightSpan d = some ⟨0x1004, 4⟩ := by
  intro c d s
  have owns : ∀ e, e = c ∨ e = d → ∀ x, flightSpan e = some x → x ∈ e.owned := by
    rintro e (rfl | rfl) x hx
    · have : x = ⟨0x1000, 4⟩ := Option.some.inj (hx.symm.trans (by decide : flightSpan c = some ⟨0x1000, 4⟩))
      subst this
      decide
    · have : x = ⟨0x1004, 4⟩ := Option.some.inj (hx.symm.trans (by decide : flightSpan d = some ⟨0x1004, 4⟩))
      subst this
      decide
  have mem : ∀ e ∈ s.ctxs, e = c ∨ e = d := by
    intro e he
    have he : e ∈ [c, d] := he
    simpa using he
  refine ⟨⟨(by decide : demoParams.wf), (by decide : Memory.wf []), fun x h => (by cases h), rfl,
    (by decide : 0 < nCtx demoParams), ?_, rfl⟩, ?_, rfl, by decide, by decide, by decide, rfl, by decide, rfl, by decide⟩
  · intro e he
    have ho := owns e (mem e he)
    rcases mem e he with rfl | rfl <;> exact ⟨fun h => (by cases h), ⟨rfl, rfl⟩, ⟨rfl, rfl⟩, fun _ => rfl, ho⟩
  · intro j k e f x y hjk he hf hx hy
    have hc : flightSpan c = some ⟨0x1000, 4⟩ := by decide
    have hd : flightSpan d = some ⟨0x1004, 4⟩ := by decide
    have hj : j < 2 := (List.getElem?_eq_some_iff.mp he).1
    have hk : k < 2 := (List.getElem?_eq_some_iff.mp hf).1
    have e0 : s.ctxs[0]? = some c := rfl
    have e1 : s.ctxs[1]? = some d := rfl
    interval_cases j <;> interval_cases k
    · exact absurd rfl hjk
    · rw [e0] at he; rw [e1] at hf; cases he; cases hf; rw [hc] at hx; rw [hd] at hy; cases hx; cases hy; decide
    · rw [e1] at he; rw [e0] at hf; cases he; cases hf; rw [hd] at hx; rw [hc] at hy; cases hx; cases hy; decide
    · exact absurd rfl hjk

/-- For BlockResetReachesTheResetState and ResetHasTheInvariant. -/
theorem witness_reset : (demo (demoCtx .vector128 0 0)).phase = .running ∧ demoParams.wf := ⟨rfl, by decide⟩

/-- For StepKeepsTheInvariant and StepKeepsFlightsDisjoint: a step from a state with the invariant. -/
theorem witness_inv_step :
    (demo (demoCtx .vector128 0x1000 4)).Inv ∧
    step (demo (demoCtx .vector128 0x1000 4)) = .next (demo (demoCtx .vector128 0x1000 4)) := ⟨demo_inv _ _ _, rfl⟩

/-- For EncryptScriptRunsToCompletion: the last byte of BUFMEM. -/
theorem witness_script :
    let c := demoCtx .vector128 0 0
    (demo c).Inv ∧ (demo c).phase = .running ∧ (demo c).ctxs[0]? = some c ∧ (demo c).params.blockBase % 4 = 0 ∧
    c.created = true ∧ c.pending = none ∧ (0xFFFF : Word) ≠ 0 ∧ 0 < (1 : Word).toInt ∧
    (0xFFFF : Word).toNat + (1 : Word).toNat ≤ bufMemSize (demo c).params ∧
    (∀ j d x, j ≠ 0 → (demo c).ctxs[j]? = some d → flightSpan d = some x → x.overlaps ⟨0xFFFF, 1⟩ = false) := by
  refine ⟨demo_inv _ _ _, rfl, rfl, by decide, rfl, rfl, by decide, by decide, by decide, ?_⟩
  intro j d x _ hd hx
  rcases mem_demo (List.mem_of_getElem? hd) with rfl | rfl <;> cases hx

end Sys2Proof.Tests
end

section
/-! PROOFS. What a command can do to its context and to BUFMEM, said once, and what it leaves alone (O11). -/

namespace Sys2Proof.Machine

/-- What a command can make of the context it runs in, before its end writes the result: the engine it found, a fresh one, none,
or its engine with a new key or new counters. -/
inductive EngineUpdate (p : Params) (c : Context) : Context → Prop where
  | same : EngineUpdate p c c
  | construct (kind : Kind) : EngineUpdate p c (construct p c kind)
  | unconstruct : EngineUpdate p c (unconstruct c)
  | baseKey (k : Key) : c.created = true → k.wrapped c.kind → EngineUpdate p c { c with base := k }
  | altKey (k : Key) : c.created = true → k.wrapped c.kind →
      EngineUpdate p c { c with alt := k, useAlt := true, encCtr := 0 }
  | counters (e d : Counter) : c.created = true → EngineUpdate p c { c with encCtr := e, decCtr := d }

/-- What a command can make of BUFMEM: nothing, or, for ENCRYPT and DECRYPT, the latched buffer written with as many bytes as it
has, all inside BUFMEM. -/
def BufferWrite (i : Instr) (s : State) (c : Context) (m : Memory) : Prop :=
  m = s.bufmem ∨
    (i = .encrypt ∨ i = .decrypt) ∧ bufferAddr c + bufferCount c ≤ bufMemSize s.params ∧
      ∃ bs : List Byte, bs.length = bufferCount c ∧ m = Memory.writeBytes s.bufmem (bufferAddr c) bs

/-- `t` is `s` after the command `i` of its active context `c` has ended. -/
def CommandEnd (i : Instr) (s : State) (c : Context) (t : State) : Prop :=
  ∃ d m r, EngineUpdate s.params c d ∧ BufferWrite i s c m ∧ t = endCommand s d m r

section
variable {i : Instr} {s t : State} {c d : Context}

/-- No command writes an operand register, a latch or BUSYVIOL, nor ERR_STICKY before its end. -/
theorem EngineUpdate.sameRegisters {p : Params} (h : EngineUpdate p c d) : c.SameRegisters d := by
  cases h <;> constructor <;> rfl

theorem CommandEnd.of_engineUpdate (r : ResultCode) (hd : EngineUpdate s.params c d) :
    CommandEnd i s c (endCommand s d s.bufmem r) :=
  ⟨d, _, r, hd, .inl rfl, rfl⟩

theorem CommandEnd.raiseError (e : ResultCode) (hd : EngineUpdate s.params c d) :
    CommandEnd i s c (raiseError s d e) :=
  .of_engineUpdate e hd

theorem CommandEnd.ifCreated (h : c.created = true → CommandEnd i s c t) :
    CommandEnd i s c (ifCreated s c t) := by
  cases hc : c.created with
  | false =>
    rw [ifCreated_none hc]
    exact .raiseError _ .same
  | true =>
    rw [ifCreated_created hc]
    exact h hc

/-- A buffer that passes CHECK_BUFFER lies inside BUFMEM. -/
theorem bufferEnd_le_of_checkBuffer_none {p : Params} (h : checkBuffer p c = none) :
    bufferAddr c + bufferCount c ≤ bufMemSize p := by
  rcases checkBuffer_cases p c with ⟨he, -⟩ | ⟨he, -⟩ | ⟨-, -, hpos, hle⟩
  · exact absurd (h.symm.trans he) (by simp)
  · exact absurd (h.symm.trans he) (by simp)
  · unfold bufferCount
    omega

theorem CommandEnd.streamCommand (hi : i = .encrypt ∨ i = .decrypt) (k : Key) (ctr : Counter)
    (commit : Counter → Context) (hcommit : c.created = true → ∀ n, EngineUpdate s.params c (commit n)) :
    CommandEnd i s c (streamCommand s c k ctr commit) := by
  rcases streamCommand_cases s c k ctr commit with ⟨-, h⟩ | ⟨e, -, -, h⟩ | ⟨hc, hb, h⟩
  · exact h ▸ .raiseError _ .same
  · exact h ▸ .raiseError _ .same
  · exact ⟨_, _, _, hcommit hc _, .inr ⟨hi, bufferEnd_le_of_checkBuffer_none hb, _, by simp, rfl⟩, h⟩

/-- Every command that is not refused ends so in the active context. -/
theorem exec_commandEnd (h : exec i s = .next t) : ∃ c, s.ctxs[s.active]? = some c ∧ CommandEnd i s c t := by
  cases i with
  | createDefault =>
    obtain ⟨c, hc, rfl⟩ := inActive_next h
    exact ⟨c, hc, .of_engineUpdate _ (.construct _)⟩
  | create var =>
    obtain ⟨c, hc, rfl⟩ := inActive_next h
    refine ⟨c, hc, ?_⟩
    split
    · exact .raiseError _ .unconstruct
    · split
      · exact .of_engineUpdate _ (.construct _)
      · exact .raiseError _ .unconstruct
  | genKey =>
    obtain ⟨c, hc, rfl⟩ := inActive_next h
    exact ⟨c, hc, .ifCreated fun hcr => .of_engineUpdate _ (.baseKey _ hcr (baseKey_wrapped _ _ _))⟩
  | genAltKey =>
    obtain ⟨c, hc, rfl⟩ := inActive_next h
    exact ⟨c, hc, .ifCreated fun hcr => .of_engineUpdate _ (.altKey _ hcr (altKey_wrapped _ _ _ _))⟩
  | encrypt =>
    obtain ⟨c, hc, rfl⟩ := inActive_next h
    exact ⟨c, hc, .streamCommand (.inl rfl) _ _ _ fun hcr n => .counters n c.decCtr hcr⟩
  | decrypt =>
    obtain ⟨c, hc, rfl⟩ := inActive_next h
    exact ⟨c, hc, .streamCommand (.inr rfl) _ _ _ fun hcr n => .counters c.encCtr n hcr⟩
  | resetCounters =>
    obtain ⟨c, hc, rfl⟩ := inActive_next h
    exact ⟨c, hc, .ifCreated fun hcr => .of_engineUpdate _ (.counters 0 0 hcr)⟩

theorem BufferWrite.eq_of_not_stream {m : Memory} (h : BufferWrite i s c m) (he : i ≠ .encrypt) (hd : i ≠ .decrypt) :
    m = s.bufmem := by
  rcases h with h | ⟨rfl | rfl, -⟩
  · exact h
  · exact absurd rfl he
  · exact absurd rfl hd

theorem BufferWrite.read_outside {m : Memory} (h : BufferWrite i s c m) {a : Nat}
    (ha : a < bufferAddr c ∨ bufferAddr c + bufferCount c ≤ a) : Memory.read m a = Memory.read s.bufmem a := by
  rcases h with rfl | ⟨-, -, bs, hlen, rfl⟩
  · rfl
  · exact Memory.read_writeBytes_outside _ _ _ (hlen ▸ ha)

/-- Replacing a context that exists. -/
theorem getElem?_set_same {cs : List Context} {k : Nat} (h : cs[k]? = some c) (d : Context) :
    (cs.set k d)[k]? = some d := by
  obtain ⟨hk, -⟩ := List.getElem?_eq_some_iff.mp h
  simp [hk]

end

/-- Settles O11: the engine update keeps the registers, the end of the command replaces one context, and BUFMEM is the only
other field it writes. -/
theorem commandFrame : Obligations.CommandFrame := by
  intro i s t c d h hc hd
  obtain ⟨c', hc', e, m, r, hupd, hm, rfl⟩ := exec_commandEnd h
  obtain rfl : c = c' := Option.some.inj (hc.symm.trans hc')
  obtain rfl : withResult e r = d := Option.some.inj ((getElem?_set_same hc _).symm.trans hd)
  have hsame := hupd.sameRegisters
  exact ⟨fun j hj => List.getElem?_set_ne (Ne.symm hj), List.length_set, rfl, rfl, rfl, rfl, rfl, rfl,
    hsame.arg0, hsame.arg1, hsame.bufAddr, hsame.len, hsame.lArg0, hsame.lArg1, hsame.lAddr, hsame.lLen,
    hsame.busyViol, hsame.owned, hm.eq_of_not_stream, fun _ a ha => hm.read_outside ha⟩

end Sys2Proof.Machine
end

section
/-! PROOFS. What an access of the host can do to the contexts and to BUFMEM, said once, and what no access does (O47, O52, O34). -/

namespace Sys2Proof.Machine

@[simp] theorem busy_eq_true_iff {c : Context} : busy c = true ↔ c.pending ≠ none := by
  simp [busy, Option.isSome_iff_ne_none]

@[simp] theorem busy_eq_false_iff {c : Context} : busy c = false ↔ c.pending = none := by
  simp [busy]

/-- What an access of the host can make of a context: the same, a recorded violation, a command started, an operand register
written, or the ownership of its buffers ended. Only the first two happen while BUSY = 1. -/
inductive HostUpdate (c : Context) : Context → Prop where
  | same : HostUpdate c c
  | violation : HostUpdate c (withBusyViolation c)
  | start (w : Word) : c.pending = none → HostUpdate c (startCommand c w)
  | arg0 (v : Word) : c.pending = none → HostUpdate c { c with arg0 := v }
  | arg1 (v : Word) : c.pending = none → HostUpdate c { c with arg1 := v }
  | bufAddr (v : Word) : c.pending = none → HostUpdate c { c with bufAddr := v }
  | len (v : Word) : c.pending = none → HostUpdate c { c with len := v }
  | observed : c.pending = none → HostUpdate c { c with owned := [] }

/-- What no access of the host changes, and that each context takes an update of the host's at most. -/
structure HostFrame (s t : State) : Prop where
  params : t.params = s.params
  phase : t.phase = s.phase
  snap : t.snap = s.snap
  active : t.active = s.active
  count : t.ctxs.length = s.ctxs.length
  contexts : ∀ (k : Nat) (c : Context), s.ctxs[k]? = some c → ∃ d, t.ctxs[k]? = some d ∧ HostUpdate c d

section
variable {s t : State} {k : Nat} {c d : Context} {e : Event}

/-- An access that replaces no context. -/
theorem HostFrame.of_reply (m : Memory) (r : Reply) : HostFrame s { s with bufmem := m, reply := r } :=
  ⟨rfl, rfl, rfl, rfl, rfl, fun _ c hc => ⟨c, hc, .same⟩⟩

/-- An access that replaces one context. -/
theorem HostFrame.of_setCtx (hc : s.ctxs[k]? = some c) (hd : HostUpdate c d) (r : Reply) :
    HostFrame s { setCtx s k d with reply := r } := by
  refine ⟨rfl, rfl, rfl, rfl, List.length_set, fun j e he => ?_⟩
  by_cases hj : k = j
  · subst hj
    obtain rfl : c = e := Option.some.inj (hc.symm.trans he)
    exact ⟨d, getElem?_set_same hc d, hd⟩
  · exact ⟨e, (List.getElem?_set_ne hj).trans he, .same⟩

theorem readRegister_hostFrame (hc : s.ctxs[k]? = some c) (r : CtxReg) :
    HostFrame s (readRegister s k c r) ∧ (readRegister s k c r).bufmem = s.bufmem := by
  rcases readRegister_cases s k c r with ⟨v, h⟩ | ⟨-, -, -, h⟩ | ⟨hb, -, h⟩
  · exact h ▸ ⟨.of_reply _ _, rfl⟩
  · exact h ▸ ⟨.of_setCtx hc .violation _, rfl⟩
  · exact h ▸ ⟨.of_setCtx hc (.observed (busy_eq_false_iff.mp hb)) _, rfl⟩

theorem writeRegister_hostFrame {r : CtxReg} {v : Word} (hc : s.ctxs[k]? = some c)
    (h : writeRegister s k c r v = .next t) : HostFrame s t ∧ t.bufmem = s.bufmem := by
  rcases writeRegister_next h with rfl | ⟨-, -, rfl⟩ | ⟨hb, -, h⟩ | ⟨hb, d, rfl, hd⟩
  · exact ⟨.of_reply _ _, rfl⟩
  · exact ⟨.of_setCtx hc .violation _, rfl⟩
  · obtain ⟨rfl, -⟩ := acceptCommand_next h
    exact ⟨.of_setCtx hc (.start v (busy_eq_false_iff.mp hb)) _, rfl⟩
  · have hidle := busy_eq_false_iff.mp hb
    refine ⟨.of_setCtx hc ?_ _, rfl⟩
    rcases hd with rfl | rfl | rfl | rfl
    · exact .arg0 v hidle
    · exact .arg1 v hidle
    · exact .bufAddr v hidle
    · exact .len v hidle

/-- Every access of the host that is not stopped keeps the frame, and writes BUFMEM only as a BUFMEM write, inside its size. -/
theorem runEvent_hostFrame (hperform : ∀ j, e ≠ .perform j) (hreset : e ≠ .blockReset)
    (h : runEvent s e = .next t) :
    HostFrame s t ∧
      (t.bufmem = s.bufmem ∨
        ∃ a bs, e = .memWrite a bs ∧ a + bs.length ≤ bufMemSize s.params ∧
          t.bufmem = Memory.writeBytes s.bufmem a bs) := by
  cases e with
  | regRead addr width =>
    rcases hostRegRead_next h with ⟨off, -, rfl⟩ | ⟨k, off, c, -, hc, rfl⟩
    · exact ⟨.of_reply _ _, .inl rfl⟩
    · exact (readRegister_hostFrame hc _).imp_right .inl
  | regWrite addr width v =>
    rcases hostRegWrite_next h with ⟨-, rfl⟩ | ⟨k, off, c, -, hc, h⟩
    · exact ⟨.of_reply _ _, .inl rfl⟩
    · exact (writeRegister_hostFrame hc h).imp_right .inl
  | memRead addr count =>
    obtain ⟨-, -, rfl⟩ := memAccess_next h
    exact ⟨.of_reply _ _, .inl rfl⟩
  | memWrite addr bs =>
    obtain ⟨hin, -, rfl⟩ := memAccess_next h
    exact ⟨.of_reply _ _, .inr ⟨addr, bs, rfl, hin, rfl⟩⟩
  | perform j => exact absurd rfl (hperform j)
  | blockReset => exact absurd rfl hreset

/-- No update of the host's writes the engine. -/
theorem HostUpdate.sameEngine (h : HostUpdate c d) : c.SameEngine d := by
  cases h <;> constructor <;> rfl

/-- No update of the host's clears BUSYVIOL. -/
theorem HostUpdate.busyViol (h : HostUpdate c d) (hv : c.busyViol = true) : d.busyViol = true := by
  cases h with
  | violation => rfl
  | _ => exact hv

end

/-- Settles O52. -/
theorem hostAccessesKeepTheEngines : Obligations.HostAccessesKeepTheEngines := by
  intro s t e k c hperform hreset h hc
  obtain ⟨hframe, hmem⟩ := runEvent_hostFrame hperform hreset h
  obtain ⟨d, hd, hupd⟩ := hframe.contexts k c hc
  refine ⟨⟨d, hd, hupd.sameEngine⟩, fun hwrite => ?_⟩
  rcases hmem with hmem | ⟨a, bs, he, -⟩
  · exact hmem
  · exact absurd he (hwrite a bs)

/-! ### One step -/

/-- A step outside reset: an access of the host, the beginning of block reset, a performed command, or nothing. The first
event, if there is one, has left the agenda. -/
theorem step_running_cases {s t : State} (hp : s.phase = .running) (h : step s = .next t) :
    ∃ es, (∃ e, (∀ j, e ≠ .perform j) ∧ e ≠ .blockReset ∧ runEvent { s with agenda := es } e = .next t) ∨
      t = beginReset { s with agenda := es } ∨ (∃ k, perform { s with agenda := es } k = .next t) ∨ t = s := by
  rcases step_next h with ⟨hn, -⟩ | ⟨-, e, es, ha, he⟩ | ⟨-, -, -, rfl⟩ | ⟨-, ha, k, -, hk⟩
  · exact absurd hp hn
  · refine ⟨es, ?_⟩
    cases e with
    | perform k => exact .inr (.inr (.inl ⟨k, he⟩))
    | blockReset => exact .inr (.inl (Host.Outcome.next.inj he).symm)
    | _ => exact .inl ⟨_, by simp, by simp, he⟩
  · exact ⟨[], .inr (.inr (.inr rfl))⟩
  · exact ⟨s.agenda, .inr (.inr (.inl ⟨k, hk⟩))⟩

/-- Settles O47. -/
theorem snapshotIsImmutable : Obligations.SnapshotIsImmutable := by
  intro s t hp h
  obtain ⟨es, ⟨e, hperform, hreset, he⟩ | rfl | ⟨k, hk⟩ | rfl⟩ := step_running_cases hp h
  · obtain ⟨hframe, -⟩ := runEvent_hostFrame hperform hreset he
    exact ⟨hframe.params, fun _ => hframe.snap⟩
  · exact ⟨rfl, fun hrun => absurd hrun (by simp)⟩
  · rcases perform_frame hk with rfl | ⟨c, d, m, r, -, -, rfl⟩
    · exact ⟨rfl, fun _ => rfl⟩
    · exact ⟨rfl, fun _ => rfl⟩
  · exact ⟨rfl, fun _ => rfl⟩

/-- The two bits of STATUS that only block reset clears are set in `d` where they are set in `c`. -/
def StickyBitsKept (c d : Context) : Prop :=
  (c.errSticky = true → d.errSticky = true) ∧ (c.busyViol = true → d.busyViol = true)

theorem StickyBitsKept.rfl' (c : Context) : StickyBitsKept c c := ⟨id, id⟩

theorem HostUpdate.stickyBitsKept {c d : Context} (h : HostUpdate c d) : StickyBitsKept c d :=
  ⟨fun he => h.sameEngine.errSticky.trans he, h.busyViol⟩

/-- Ending a command sets ERR_STICKY on an error and clears neither bit. -/
theorem withResult_stickyBitsKept {c d : Context} (h : c.SameRegisters d) (r : ResultCode) :
    StickyBitsKept c (withResult d r) :=
  ⟨fun he => by simp [h.errSticky, he], h.busyViol.trans⟩

/-- Performing a command clears neither bit of any context. -/
theorem perform_stickyBitsKept {s t : State} {k j : Nat} {c : Context} (h : perform s j = .next t)
    (hc : s.ctxs[k]? = some c) : ∃ d, t.ctxs[k]? = some d ∧ StickyBitsKept c d := by
  rcases perform_frame h with rfl | ⟨c', d, m, r, hc', hsame, rfl⟩
  · exact ⟨c, hc, StickyBitsKept.rfl' c⟩
  · by_cases hj : j = k
    · subst hj
      obtain rfl : c = c' := Option.some.inj (hc.symm.trans hc')
      exact ⟨_, getElem?_set_same hc _, withResult_stickyBitsKept hsame r⟩
    · exact ⟨c, (List.getElem?_set_ne hj).trans hc, StickyBitsKept.rfl' c⟩

/-! ### The stages of block reset -/

section
variable {s : State}

theorem resetStage_running (h : s.phase = .running) : resetStage s = s := by
  simp [resetStage, h]

theorem resetStage_contexts (h : s.phase = .contexts) :
    resetStage s =
      { s with phase := .detect, ctxs := List.replicate (nCtx s.params) Context.reset, active := 0 } := by
  simp [resetStage, h]

theorem resetStage_detect (h : s.phase = .detect) :
    resetStage s = { s with phase := .finish, snap := detect s.params } := by
  simp [resetStage, h]

theorem resetStage_finish (h : s.phase = .finish) : resetStage s = { s with phase := .running } := by
  simp [resetStage, h]

/-- Only one stage of block reset writes the contexts. -/
theorem resetStage_ctxs (h : s.phase ≠ .contexts) : (resetStage s).ctxs = s.ctxs := by
  cases hp : s.phase with
  | running => rw [resetStage_running hp]
  | contexts => exact absurd hp h
  | detect => rw [resetStage_detect hp]
  | finish => rw [resetStage_finish hp]

/-- Until block reset has ended, a step is its next stage. -/
theorem step_inReset (h : s.phase ≠ .running) : step s = .next (resetStage s) := by
  unfold step stepState
  split
  · next hp => exact absurd hp h
  · rfl

end

/-- Settles O34: the host, a command, and every other stage of block reset keep both bits. -/
theorem stickyBitsFallOnlyInReset : Obligations.StickyBitsFallOnlyInReset := by
  intro s t k c hphase h hc
  by_cases hp : s.phase = .running
  · obtain ⟨es, ⟨e, hperform, hreset, he⟩ | rfl | ⟨j, hj⟩ | rfl⟩ := step_running_cases hp h
    · obtain ⟨hframe, -⟩ := runEvent_hostFrame hperform hreset he
      exact (hframe.contexts k c hc).imp fun d hd => hd.imp_right HostUpdate.stickyBitsKept
    · exact ⟨c, hc, StickyBitsKept.rfl' c⟩
    · exact perform_stickyBitsKept hj hc
    · exact ⟨c, hc, StickyBitsKept.rfl' c⟩
  · obtain rfl : resetStage s = t := Host.Outcome.next.inj ((step_inReset hp).symm.trans h)
    exact ⟨c, (congrArg (·[k]?) (resetStage_ctxs hphase)).trans hc, StickyBitsKept.rfl' c⟩

end Sys2Proof.Machine
end

section
/-! PROOFS. The invariant of the block: what keeps it of one context, that reset has it (O57), and that every step keeps it (O58). -/

namespace Sys2Proof.Machine

/-! ### One context -/

/-- The part of a context's invariant that speaks of its engine. -/
structure Context.EngineInv (c : Context) : Prop where
  empty : c.created = false → c.emptyEngine
  baseWrapped : c.base.wrapped c.kind
  altWrapped : c.alt.wrapped c.kind

section
variable {p : Params} {c d : Context}

theorem Context.Inv.engineInv (h : c.Inv) : c.EngineInv := ⟨h.empty, h.baseWrapped, h.altWrapped⟩

/-- Every update a command makes keeps the invariant of the engine. -/
theorem EngineUpdate.engineInv (h : EngineUpdate p c d) (hc : c.EngineInv) : d.EngineInv := by
  cases h with
  | same => exact hc
  | construct kind => exact ⟨fun hn => absurd hn (by simp), baseKey_wrapped _ _ _, keyOf_wrapped _ _ _⟩
  | unconstruct => exact ⟨fun _ => ⟨rfl, rfl, rfl, rfl, rfl, rfl⟩, ⟨rfl, rfl⟩, ⟨rfl, rfl⟩⟩
  | baseKey k hcr hk => exact ⟨fun hn => absurd (hcr.symm.trans hn) (by simp), hk, hc.altWrapped⟩
  | altKey k hcr hk => exact ⟨fun hn => absurd (hcr.symm.trans hn) (by simp), hc.baseWrapped, hk⟩
  | counters e f hcr => exact ⟨fun hn => absurd (hcr.symm.trans hn) (by simp), hc.baseWrapped, hc.altWrapped⟩

theorem flightSpan_of_idle (h : c.pending = none) : flightSpan c = none := by
  simp [flightSpan, h]

/-- An idle context has no buffer in flight that an engine could own. -/
theorem Context.owns_of_idle (h : c.pending = none) (x : Span) (hx : flightSpan c = some x) : x ∈ c.owned :=
  absurd hx (by simp [flightSpan_of_idle h])

/-- The end of a command needs the invariant of the engine only: it sets ERR_STICKY on an error, and no command is in flight. -/
theorem Context.EngineInv.withResult (h : c.EngineInv) (r : ResultCode) : (withResult c r).Inv where
  empty := h.empty
  baseWrapped := h.baseWrapped
  altWrapped := h.altWrapped
  sticky hs := by
    simp only [withResult_errSticky, Bool.or_eq_false_iff, bne_eq_false_iff_eq] at hs
    exact hs.2
  owns := Context.owns_of_idle rfl

/-- An access that leaves the engine, CODE and ERR_STICKY alone keeps the invariant where the engine still owns the buffer in
flight. -/
theorem Context.Inv.of_sameEngine (hc : c.Inv) (h : c.SameEngine d)
    (howns : ∀ x, flightSpan d = some x → x ∈ d.owned) : d.Inv where
  empty := by
    unfold Context.emptyEngine
    rw [h.created, h.kind, h.useAlt, h.encCtr, h.decCtr, h.base, h.alt]
    exact hc.empty
  baseWrapped := by rw [h.base, h.kind]; exact hc.baseWrapped
  altWrapped := by rw [h.alt, h.kind]; exact hc.altWrapped
  sticky := by rw [h.errSticky, h.code]; exact hc.sticky
  owns := howns

/-- Every update of the host's keeps the invariant of a context: a started command's buffer becomes the engine's, and only an
idle context's ownership ends. -/
theorem HostUpdate.inv (h : HostUpdate c d) (hc : c.Inv) : d.Inv := by
  refine hc.of_sameEngine h.sameEngine ?_
  cases h with
  | same => exact hc.owns
  | violation => exact hc.owns
  | start w _ =>
    intro x hx
    have hspan : commandSpan w c.bufAddr c.len = some x := hx
    simp [hspan]
  | arg0 _ hp => exact Context.owns_of_idle hp
  | arg1 _ hp => exact Context.owns_of_idle hp
  | bufAddr _ hp => exact Context.owns_of_idle hp
  | len _ hp => exact Context.owns_of_idle hp
  | observed hp => exact Context.owns_of_idle hp

theorem Context.reset_inv : Context.reset.Inv where
  empty _ := ⟨rfl, rfl, rfl, rfl, rfl, rfl⟩
  baseWrapped := ⟨rfl, rfl⟩
  altWrapped := ⟨rfl, rfl⟩
  sticky _ := rfl
  owns := Context.owns_of_idle rfl

end

/-! ### BUFMEM -/

/-- A content of BUFMEM that the invariant admits: canonical, and no byte outside BUFMEM_SIZE. -/
def Memory.inside (p : Params) (m : Memory) : Prop := m.wf ∧ ∀ x ∈ m, x.1 < bufMemSize p

theorem Memory.inside.writeBytes {p : Params} {m : Memory} (h : m.inside p) {a : Nat} {bs : List Byte}
    (hin : a + bs.length ≤ bufMemSize p) : (Memory.writeBytes m a bs).inside p :=
  ⟨Memory.wf_writeBytes h.1 a bs, fun x hx =>
    (Memory.mem_writeBytes hx).elim (fun hlt => lt_of_lt_of_le hlt hin) (h.2 x)⟩

theorem BufferWrite.inside {i : Instr} {s : State} {c : Context} {m : Memory} (h : BufferWrite i s c m)
    (hs : Memory.inside s.params s.bufmem) : m.inside s.params := by
  rcases h with rfl | ⟨-, hin, bs, hlen, rfl⟩
  · exact hs
  · exact hs.writeBytes (hlen ▸ hin)

/-! ### The block -/

section
variable {s t : State} {k : Nat} {c d : Context} {m : Memory}

theorem State.Inv.inside (h : s.Inv) : Memory.inside s.params s.bufmem := ⟨h.memory, h.inRange⟩

theorem State.Inv.context (h : s.Inv) (hc : s.ctxs[k]? = some c) : c.Inv := h.contexts c (List.mem_of_getElem? hc)

/-- A context that exists has a number below N_CTX. -/
theorem State.Inv.lt_nCtx (h : s.Inv) (hc : s.ctxs[k]? = some c) : k < nCtx s.params :=
  h.count ▸ (List.getElem?_eq_some_iff.mp hc).1

/-- The invariant does not speak of the events still to happen. -/
theorem State.Inv.withAgenda (h : s.Inv) (es : List Event) : State.Inv { s with agenda := es } :=
  ⟨h.names, h.memory, h.inRange, h.count, h.active, h.contexts, h.snapshot⟩

theorem State.Inv.withActive (h : s.Inv) (hk : k < nCtx s.params) : State.Inv { s with active := k } :=
  ⟨h.names, h.memory, h.inRange, h.count, hk, h.contexts, h.snapshot⟩

/-- The end of a command keeps the invariant. -/
theorem State.Inv.endCommand (h : s.Inv) (hd : d.EngineInv) (hm : m.inside s.params) (r : ResultCode) :
    (endCommand s d m r).Inv where
  names := h.names
  memory := hm.1
  inRange := hm.2
  count := List.length_set.trans h.count
  active := h.active
  contexts e he := by
    rcases List.mem_or_eq_of_mem_set he with he | rfl
    · exact h.contexts e he
    · exact hd.withResult r
  snapshot := h.snapshot

theorem exec_keeps_inv {i : Instr} (hs : s.Inv) (h : exec i s = .next t) : t.Inv := by
  obtain ⟨c, hc, d, m, r, hd, hm, rfl⟩ := exec_commandEnd h
  exact hs.endCommand (hd.engineInv (hs.context hc).engineInv) (hm.inside hs.inside) r

theorem perform_keeps_inv (hs : s.Inv) (h : perform s k = .next t) : t.Inv := by
  obtain ⟨c, hc, ⟨-, rfl⟩ | ⟨w, -, ⟨e, -, rfl⟩ | ⟨i, -, hi⟩⟩⟩ := perform_next h
  · exact hs
  · exact (hs.withActive (hs.lt_nCtx hc)).endCommand (hs.context hc).engineInv hs.inside .illegalCommand
  · exact exec_keeps_inv (hs.withActive (hs.lt_nCtx hc)) hi

/-- What keeps the frame of the host's accesses and an admitted BUFMEM keeps the invariant. -/
theorem HostFrame.keeps_inv (h : HostFrame s t) (hs : s.Inv) (hm : t.bufmem.inside s.params) : t.Inv where
  names := by rw [h.params]; exact hs.names
  memory := hm.1
  inRange := by rw [h.params]; exact hm.2
  count := by rw [h.count, h.params]; exact hs.count
  active := by rw [h.active, h.params]; exact hs.active
  contexts d hd := by
    obtain ⟨k, hk⟩ := List.getElem?_of_mem hd
    have hlt : k < s.ctxs.length := h.count ▸ (List.getElem?_eq_some_iff.mp hk).1
    obtain ⟨d', hd', hupd⟩ := h.contexts k _ (List.getElem?_eq_getElem hlt)
    obtain rfl : d' = d := Option.some.inj (hd'.symm.trans hk)
    exact hupd.inv (hs.contexts _ (List.getElem_mem hlt))
  snapshot := by
    unfold State.snapshotOk
    rw [h.phase, h.snap, h.params]
    exact hs.snapshot

theorem beginReset_keeps_inv (hs : s.Inv) : (beginReset s).Inv :=
  ⟨hs.names, hs.memory, hs.inRange, hs.count, hs.active, hs.contexts, rfl⟩

/-- Block reset writes the contexts, then the snapshot, and then ends. -/
theorem resetStage_keeps_inv (hs : s.Inv) : (resetStage s).Inv := by
  have hsnap := hs.snapshot
  unfold State.snapshotOk at hsnap
  cases hp : s.phase <;> simp only [hp] at hsnap
  case running =>
    rw [resetStage_running hp]
    exact hs
  case contexts =>
    rw [resetStage_contexts hp]
    exact ⟨hs.names, hs.memory, hs.inRange, by simp, by simp [nCtx],
      fun c hc => List.eq_of_mem_replicate hc ▸ Context.reset_inv, hsnap⟩
  case detect =>
    rw [resetStage_detect hp]
    exact ⟨hs.names, hs.memory, hs.inRange, hs.count, hs.active, hs.contexts, rfl⟩
  case finish =>
    rw [resetStage_finish hp]
    exact ⟨hs.names, hs.memory, hs.inRange, hs.count, hs.active, hs.contexts, hsnap⟩

theorem resetWith_inv {p : Params} (hp : p.wf) : (State.resetWith p).Inv where
  names := hp
  memory := ⟨.nil, by simp⟩
  inRange := by simp
  count := by simp
  active := by simp [nCtx]
  contexts c hc := List.eq_of_mem_replicate hc ▸ Context.reset_inv
  snapshot := rfl

end

/-- Settles O58: block reset, the host's accesses and the commands keep the invariant. -/
theorem stepKeepsTheInvariant : Obligations.StepKeepsTheInvariant := by
  intro s t hs h
  by_cases hp : s.phase = .running
  · obtain ⟨es, ⟨e, hperform, hreset, he⟩ | rfl | ⟨k, hk⟩ | rfl⟩ := step_running_cases hp h
    · obtain ⟨hframe, hmem⟩ := runEvent_hostFrame hperform hreset he
      refine hframe.keeps_inv (hs.withAgenda es) ?_
      rcases hmem with hmem | ⟨a, bs, -, hin, hmem⟩
      · exact hmem ▸ hs.inside
      · exact hmem ▸ hs.inside.writeBytes hin
    · exact beginReset_keeps_inv (hs.withAgenda es)
    · exact perform_keeps_inv (hs.withAgenda es) hk
    · exact hs
  · obtain rfl : resetStage s = t := Host.Outcome.next.inj ((step_inReset hp).symm.trans h)
    exact resetStage_keeps_inv hs

/-- The names of this implementation are cut to 31 characters. -/
theorem config_params_wf : Config.params.wf := ⟨List.length_take_le _ _, List.length_take_le _ _, List.length_take_le _ _⟩

/-- Right after reset no command is in flight. -/
theorem resetWith_flightsDisjoint (p : Params) : (State.resetWith p).flightsDisjoint := by
  intro j k c d x y _ hc _ hx _
  obtain rfl : c = Context.reset := List.eq_of_mem_replicate (List.mem_of_getElem? hc)
  exact absurd hx (by simp [flightSpan_of_idle (c := Context.reset) rfl])

/-- Settles O57. -/
theorem resetHasTheInvariant : Obligations.ResetHasTheInvariant :=
  ⟨resetWith_inv config_params_wf, resetWith_flightsDisjoint _, fun _ => resetWith_inv⟩

end Sys2Proof.Machine
end

section
/-! PROOFS. What a register access answers and changes, one equation per case, and the claims about the windows of the contexts
and the capability window (O35, O38 to O42, O46, O48, O53). -/

namespace Sys2Proof.Machine

/-! ### The registers by their offset -/

/-- The registers of a context window that no host write changes (10_state.md R53). -/
def CtxReg.readOnly : CtxReg → Bool
  | .status | .info | .encCtr | .decCtr | .name _ => true
  | .cmd | .arg0 | .arg1 | .bufAddr | .len | .reserved => false

/-- An offset that 10_state.md R41 does not list is reserved. -/
theorem ctxReg_unlisted {off : Nat} (h : off ∉ contextOffsets) : ctxReg off = .reserved := by
  have hname : ¬ (0x40 ≤ off ∧ off ≤ 0x5C ∧ off % 4 = 0) := by
    simp only [contextOffsets, List.mem_cons, List.not_mem_nil, or_false, not_or] at h
    omega
  unfold ctxReg
  split
  case h_10 => rw [if_neg hname]
  all_goals exact absurd (by decide) h

/-- Only the offset of STATUS names it. -/
theorem ctxReg_eq_status_iff {off : Nat} : ctxReg off = .status ↔ off = 0x04 := by
  refine ⟨fun h => ?_, fun h => h ▸ rfl⟩
  by_cases hoff : off ∈ contextOffsets
  · exact (by decide : ∀ o ∈ contextOffsets, ctxReg o = .status → o = 0x04) off hoff h
  · exact absurd ((ctxReg_unlisted hoff).symm.trans h) (by simp)

/-- The offsets from 0x40 on that are listed are those of the name. -/
theorem ctxReg_nameOffset : ∀ off ∈ contextOffsets, 0x40 ≤ off → ctxReg off = .name ((off - 0x40) / 4) := by
  decide

/-- An offset that 10_state.md R54 does not list is reserved. -/
theorem capReg_unlisted {off : Nat} (h0 : off ≠ 0x00) (h1 : ¬ (0x10 ≤ off ∧ off ≤ 0x18))
    (h2 : ¬ (0x20 ≤ off ∧ off ≤ 0x5C)) : capReg off = .reserved := by
  unfold capReg
  rw [if_neg h0, if_neg (by omega), if_neg (by omega), if_neg (by omega)]

/-! ### One access of a context's register -/

section
variable {s : State} {k : Nat} {c : Context} {r : CtxReg} {v w : Word}

theorem readRegister_reserved : readRegister s k c .reserved = { s with reply := .word 0 } := rfl

theorem readRegister_busy (hb : c.pending ≠ none) (hr : r ≠ .reserved) (hs : r ≠ .status) :
    readRegister s k c r = refuseBusy s k c (.word 0) := by
  unfold readRegister
  split
  · exact absurd rfl hr
  · exact absurd rfl hs
  · exact if_pos (busy_eq_true_iff.mpr hb)

theorem readRegister_status_busy (hb : c.pending ≠ none) :
    readRegister s k c .status = { s with reply := .word (statusWord c) } := by
  simp [readRegister, hb]

theorem readRegister_status_idle (hb : c.pending = none) :
    readRegister s k c .status = { setCtx s k { c with owned := [] } with reply := .word (statusWord c) } := by
  simp [readRegister, hb]

theorem readRegister_idle (hb : c.pending = none) (hs : r ≠ .status) :
    readRegister s k c r = { s with reply := .word (regValue s.params c r) } := by
  unfold readRegister
  split
  · rfl
  · exact absurd rfl hs
  · exact if_neg (by simp [hb])

theorem writeRegister_reserved : writeRegister s k c .reserved v = .next { s with reply := .none } := rfl

theorem writeRegister_busy (hb : c.pending ≠ none) (hr : r ≠ .reserved) :
    writeRegister s k c r v = .next (refuseBusy s k c .none) := by
  unfold writeRegister
  split
  · exact absurd rfl hr
  · exact if_pos (busy_eq_true_iff.mpr hb)

theorem writeRegister_readOnly (hb : c.pending = none) (hr : r.readOnly = true) :
    writeRegister s k c r v = .next { s with reply := .none } := by
  unfold writeRegister
  split
  · rfl
  · rw [if_neg (by simp [hb])]
    split
    case h_6 => rfl
    all_goals exact absurd hr (by decide)

theorem writeRegister_cmd (hb : c.pending = none) : writeRegister s k c .cmd w = acceptCommand s k c w := by
  simp [writeRegister, hb]

/-- A range that no command in flight elsewhere overlaps. -/
theorem overlapsOther_eq_false {x : Span}
    (h : ∀ j d y, j ≠ k → s.ctxs[j]? = some d → flightSpan d = some y → y.overlaps x = false) :
    overlapsOther s k x = false := by
  unfold overlapsOther
  refine List.any_eq_false.mpr fun j _ => ?_
  simp only [Bool.and_eq_true, bne_iff_ne, not_and, Option.any_eq_true, Option.bind_eq_some_iff]
  rintro hj ⟨y, ⟨d, hd, hy⟩, hov⟩
  exact absurd hov (by simp [h j d y hj hd hy])

/-- A CMD write that makes no race starts the command. -/
theorem acceptCommand_eq (h : ∀ x, commandSpan w c.bufAddr c.len = some x → overlapsOther s k x = false) :
    acceptCommand s k c w = .next { setCtx s k (startCommand c w) with reply := .none } := by
  cases hx : commandSpan w c.bufAddr c.len with
  | none => simp [acceptCommand, hx]
  | some x => simp [acceptCommand, hx, h x hx]

/-- An operand register that is not busy takes the written word, reads it back, and no other field of the context changes. -/
theorem writeRegister_operand {off : Nat} (hb : c.pending = none)
    (ho : off = 0x08 ∨ off = 0x0C ∨ off = 0x10 ∨ off = 0x14) :
    ∃ d, writeRegister s k c (ctxReg off) v = .next { setCtx s k d with reply := .none } ∧
      d.pending = none ∧ regValue s.params d (ctxReg off) = v ∧
      (off = 0x08 → d = { c with arg0 := v }) ∧ (off = 0x0C → d = { c with arg1 := v }) ∧
      (off = 0x10 → d = { c with bufAddr := v }) ∧ (off = 0x14 → d = { c with len := v }) := by
  rcases ho with rfl | rfl | rfl | rfl
  · exact ⟨{ c with arg0 := v }, by simp [ctxReg, writeRegister, hb], hb, rfl, by simp⟩
  · exact ⟨{ c with arg1 := v }, by simp [ctxReg, writeRegister, hb], hb, rfl, by simp⟩
  · exact ⟨{ c with bufAddr := v }, by simp [ctxReg, writeRegister, hb], hb, rfl, by simp⟩
  · exact ⟨{ c with len := v }, by simp [ctxReg, writeRegister, hb], hb, rfl, by simp⟩

/-! ### The step of one access -/

variable {off : Nat} {rest : List Event}

/-- A register read at the head of the agenda of a block that is not in reset. -/
theorem step_regRead_context (hp : s.phase = .running) (hc : s.ctxs[k]? = some c) (hk : k < nCtx s.params)
    (ho : off < 0x100) (ha : (s.params.blockBase + 0x100 * (k + 1) + off) % 4 = 0) :
    step { s with agenda := .regRead (s.params.blockBase + 0x100 * (k + 1) + off) 4 :: rest } =
      .next (readRegister { s with agenda := rest } k c (ctxReg off)) :=
  (step_cons hp).trans (hostRegRead_context (s := { s with agenda := rest }) hk ho hc ha)

/-- A register write at the head of the agenda of a block that is not in reset. -/
theorem step_regWrite_context (hp : s.phase = .running) (hc : s.ctxs[k]? = some c) (hk : k < nCtx s.params)
    (ho : off < 0x100) (ha : (s.params.blockBase + 0x100 * (k + 1) + off) % 4 = 0) :
    step { s with agenda := .regWrite (s.params.blockBase + 0x100 * (k + 1) + off) 4 v :: rest } =
      writeRegister { s with agenda := rest } k c (ctxReg off) v :=
  (step_cons hp).trans (hostRegWrite_context (s := { s with agenda := rest }) hk ho hc ha)

/-- A run goes on with the next step. -/
theorem run_next {t : State} (n : Nat) (h : step s = .next t) :
    Host.Core.run core (n + 1) s = Host.Core.run core n t := by
  simp [Host.Core.run, core, h]

end

/-! ### The windows of the contexts -/

/-- Settles O35. -/
theorem busyAccessesAreRecorded : Obligations.BusyAccessesAreRecorded := by
  intro s k off rest c v hp hc hk ho ha hb
  refine ⟨fun hr => ?_, fun hr hs => ?_, fun hs => ?_⟩
  · rw [step_regWrite_context hp hc hk ho ha, writeRegister_busy hb hr]
    rfl
  · rw [step_regRead_context hp hc hk ho ha, readRegister_busy hb hr hs]
    rfl
  · rw [step_regRead_context hp hc hk ho ha, hs, readRegister_status_busy hb]

/-- Settles O38: the write leaves the context idle, so the read that follows it answers the register. -/
theorem operandRegistersReadBack : Obligations.OperandRegistersReadBack := by
  intro s k off rest c v hp hc hk hb ho ha
  have hlt : off < 0x100 := by omega
  have hs : ctxReg off ≠ .status := fun h => absurd (ctxReg_eq_status_iff.mp h) (by omega)
  obtain ⟨d, hwrite, hd, hread, hfields⟩ :=
    writeRegister_operand (s := { s with agenda := .regRead (s.params.blockBase + 0x100 * (k + 1) + off) 4 :: rest })
      (k := k) (v := v) hb ho
  have hstep1 := (step_regWrite_context hp hc hk hlt ha).trans hwrite
  have hstep2 := step_regRead_context (s := { setCtx s k d with reply := .none }) (rest := rest) hp
    (getElem?_set_same hc d) hk hlt ha
  refine ⟨d, ?_, hfields⟩
  rw [run_next 1 hstep1]
  refine (run_next 0 hstep2).trans ?_
  rw [readRegister_idle hd hs]
  exact congrArg (fun w => Host.Outcome.next { s with agenda := rest, ctxs := s.ctxs.set k d, reply := .word w }) hread

/-- Settles O39. -/
theorem commandWriteStartsAndLatches : Obligations.CommandWriteStartsAndLatches := by
  intro s k rest c w hp hc hk hb ha hfree
  have hstep := step_regWrite_context (v := w) (rest := rest) (off := 0) hp hc hk (by omega) ha
  have hrace : ∀ x, commandSpan w c.bufAddr c.len = some x →
      overlapsOther { s with agenda := rest } k x = false := fun x hx =>
    overlapsOther_eq_false fun j d y hj hd hy => hfree j d x y hj hd hy hx
  refine ⟨(commandSpan w c.bufAddr c.len).toList ++ c.owned, ?_, fun x hx => by simp [hx], fun x hx => by simp [hx]⟩
  exact hstep.trans ((writeRegister_cmd hb).trans (acceptCommand_eq hrace))

/-- Settles O40. -/
theorem reservedOffsetsDoNothing : Obligations.ReservedOffsetsDoNothing := by
  intro s k off rest c v hp hc hk ho hlist ha
  have hr : ctxReg off = .reserved := ctxReg_unlisted hlist
  exact ⟨by rw [step_regRead_context hp hc hk ho ha, hr, readRegister_reserved],
    by rw [step_regWrite_context hp hc hk ho ha, hr, writeRegister_reserved]⟩

/-- Settles O41. -/
theorem readOnlyRegistersIgnoreWrites : Obligations.ReadOnlyRegistersIgnoreWrites := by
  intro s k off rest c v hp hc hk hb hlist ha
  obtain ⟨ho, hr⟩ :=
    (by decide : ∀ o ∈ [0x04, 0x18, 0x1C, 0x20, 0x40, 0x44, 0x48, 0x4C, 0x50, 0x54, 0x58, 0x5C],
      o < 0x100 ∧ (ctxReg o).readOnly = true) off hlist
  rw [step_regWrite_context hp hc hk ho ha, writeRegister_readOnly hb hr]

/-- Replacing a context by itself. -/
theorem setCtx_same {s : State} {k : Nat} {c : Context} (hc : s.ctxs[k]? = some c) : setCtx s k c = s := by
  obtain ⟨hk, rfl⟩ := List.getElem?_eq_some_iff.mp hc
  simp [setCtx]

/-- A register read of an idle context answers the register, and ends the ownership of its buffers if it is STATUS. -/
theorem readRegister_idle_frame {s : State} {k : Nat} {c : Context} (hc : s.ctxs[k]? = some c) (hb : c.pending = none)
    (off : Nat) :
    readRegister s k c (ctxReg off) =
      { setCtx s k { c with owned := if off = 0x04 then [] else c.owned } with
        reply := .word (regValue s.params c (ctxReg off)) } := by
  by_cases ho : off = 0x04
  · subst ho
    exact readRegister_status_idle hb
  · rw [readRegister_idle hb fun h => ho (ctxReg_eq_status_iff.mp h), if_neg ho]
    exact congrArg (fun t : State => { t with reply := .word (regValue s.params c (ctxReg off)) }) (setCtx_same hc).symm

/-- Settles O42. -/
theorem registerReadsReturnTheState : Obligations.RegisterReadsReturnTheState := by
  intro s k off rest c hp hc hk hb hlist ha
  have hlt : off < 0x100 := (by decide : ∀ o ∈ contextOffsets, o < 0x100) off hlist
  have hread := readRegister_idle_frame (s := { s with agenda := rest }) hc hb off
  refine ⟨regValue s.params c (ctxReg off), { c with owned := if off = 0x04 then [] else c.owned },
    (step_regRead_context hp hc hk hlt ha).trans (congrArg _ hread), rfl,
    ?cmd, ?status, ?arg0, ?arg1, ?bufAddr, ?len, ?info, ?encCtr, ?decCtr, fun hname => ?name,
    windowRegisters s.params c, by simp [hc], mem_windowRegisters.mpr ⟨hlist, rfl⟩⟩
  case encCtr =>
    rintro rfl
    exact BitVec.toNat_setWidth_of_le (by decide)
  case decCtr =>
    rintro rfl
    exact BitVec.toNat_setWidth_of_le (by decide)
  case name => rw [ctxReg_nameOffset off hlist hname]
  all_goals
    rintro rfl
    rfl

/-! ### The capability window and malformed accesses -/

theorem hostRegWrite_capability {s : State} {off : Nat} {v : Word} (ho : off < 0x100)
    (ha : (s.params.blockBase + off) % 4 = 0) :
    hostRegWrite s (s.params.blockBase + off) 4 v = .next { s with reply := .none } := by
  rw [hostRegWrite, regAccess_eq _ ha (locate_capability _ ho)]

theorem hostRegRead_capability {s : State} {off : Nat} (ho : off < 0x100)
    (ha : (s.params.blockBase + off) % 4 = 0) :
    hostRegRead s (s.params.blockBase + off) 4 =
      .next { s with reply := .word (capValue (capWindow s) (capReg off)) } := by
  rw [hostRegRead, regAccess_eq _ ha (locate_capability _ ho)]

/-- Settles O46. -/
theorem capabilityWindowIsReadOnly : Obligations.CapabilityWindowIsReadOnly := by
  intro s off rest v hp ho ha
  refine ⟨?_, ?_, fun ⟨h0, h1, h2⟩ => by rw [capReg_unlisted h0 h1 h2]; rfl⟩
  · exact (step_cons hp).trans (hostRegWrite_capability (s := { s with agenda := rest }) ho ha)
  · refine (step_cons hp).trans ((hostRegRead_capability (s := { s with agenda := rest }) ho ha).trans ?_)
    rw [capWindow_running (s := { s with agenda := rest }) hp]

theorem regAccess_wrongWidth {s : State} {addr width : Nat}
    (f : Window × Nat → Host.Outcome State Fault Refusal) (h : width ≠ 4) :
    regAccess s addr width f = .refused .accessWidth := if_pos h

theorem regAccess_misaligned {s : State} {addr : Nat}
    (f : Window × Nat → Host.Outcome State Fault Refusal) (h : addr % 4 ≠ 0) :
    regAccess s addr 4 f = .refused .misalignedAccess := by
  simp [regAccess, h]

/-- Settles O48. -/
theorem malformedRegisterAccessIsRefused : Obligations.MalformedRegisterAccessIsRefused := by
  intro s addr width rest v hp
  refine ⟨fun hw => ⟨?_, ?_⟩, ?_⟩
  · exact (step_cons hp).trans (regAccess_wrongWidth _ hw)
  · exact (step_cons hp).trans (regAccess_wrongWidth _ hw)
  · rintro rfl ha
    exact ⟨(step_cons hp).trans (regAccess_misaligned _ ha), (step_cons hp).trans (regAccess_misaligned _ ha)⟩

/-! ### What cannot be read -/

/-- What a read of a register of a context answers. -/
def readAnswer (p : Params) (c : Context) (r : CtxReg) : Word :=
  if busy c ∧ r ≠ .status then 0 else regValue p c r

theorem readRegister_reply (s : State) (k : Nat) (c : Context) (r : CtxReg) :
    (readRegister s k c r).reply = .word (readAnswer s.params c r) := by
  unfold readRegister readAnswer
  split
  · simp [regValue]
  · split <;> simp [regValue]
  · next hs =>
    by_cases hb : busy c = true
    · rw [if_pos hb, if_pos ⟨hb, hs⟩, refuseBusy_reply]
    · rw [if_neg hb, if_neg fun h => hb h.1]

/-- The context `k` with other keys, wrap windows and latches. -/
def Context.withSecrets (base alt : Nat → Key) (p g a n : Nat → Word) (k : Nat) (c : Context) : Context :=
  { c with base := base k, alt := alt k, lArg0 := p k, lArg1 := g k, lAddr := a k, lLen := n k }

section
variable {s t : State} {base alt : Nat → Key} {p g a n : Nat → Word}

theorem readAnswer_withSecrets (q : Params) (k : Nat) (c : Context) (r : CtxReg) :
    readAnswer q (c.withSecrets base alt p g a n k) r = readAnswer q c r := by
  cases r <;> rfl

/-- Whether an access to BUFMEM is a race depends on the buffers the engines own alone. -/
theorem racesWith_congr (h : t.ctxs.map (·.owned) = s.ctxs.map (·.owned)) (x : Span) : racesWith t x = racesWith s x := by
  have howned : ∀ u : State, racesWith u x = (u.ctxs.map (·.owned)).any fun ys => ys.any fun y => y.overlaps x :=
    fun u => by simp [racesWith, Function.comp_def]
  rw [howned, howned, h]

theorem hostRegRead_of_locate {addr k off : Nat} {c : Context} (ha : addr % 4 = 0)
    (hx : locate s.params addr = some (.context k, off)) (hc : s.ctxs[k]? = some c) :
    hostRegRead s addr 4 = .next (readRegister s k c (ctxReg off)) := by
  rw [hostRegRead, regAccess_eq _ ha hx]
  simp [hc]

theorem hostRegRead_withSecrets {addr width : Nat} (h : hostRegRead s addr width = .next t) :
    ∃ u, hostRegRead { s with ctxs := s.ctxs.mapIdx (Context.withSecrets base alt p g a n) } addr width = .next u ∧
      u.reply = t.reply := by
  obtain ⟨rfl, ha, ⟨window, off⟩, hx, h⟩ := regAccess_next h
  cases window with
  | capability =>
    cases h
    exact ⟨_, regAccess_eq _ ha hx, rfl⟩
  | context k =>
    dsimp only at h
    split at h
    · cases h
    next c hc =>
    cases h
    have hc' : (s.ctxs.mapIdx (Context.withSecrets base alt p g a n))[k]? = some (c.withSecrets base alt p g a n k) := by
      rw [List.getElem?_mapIdx, hc]
      rfl
    refine ⟨_, hostRegRead_of_locate ha hx hc', ?_⟩
    rw [readRegister_reply, readRegister_reply, readAnswer_withSecrets]

theorem hostMemRead_withSecrets {addr count : Nat} (h : hostMemRead s addr count = .next t) :
    ∃ u, hostMemRead { s with ctxs := s.ctxs.mapIdx (Context.withSecrets base alt p g a n) } addr count = .next u ∧
      u.reply = t.reply := by
  obtain ⟨hin, hrace, rfl⟩ := memAccess_next h
  have howned : (s.ctxs.mapIdx (Context.withSecrets base alt p g a n)).map (·.owned) = s.ctxs.map (·.owned) := by
    refine List.ext_getElem? fun k => ?_
    simp [Context.withSecrets, Function.comp_def]
  exact ⟨_, memAccess_eq _ hin ((racesWith_congr howned _).trans hrace), rfl⟩

end

/-- Settles O53: every answer is made of fields that the other context has too. -/
theorem keysAndLatchesCannotBeRead : Obligations.KeysAndLatchesCannotBeRead := by
  intro s t e base alt p g a n hread h
  obtain ⟨addr, width, rfl | rfl⟩ := hread
  · exact hostRegRead_withSecrets h
  · exact hostMemRead_withSecrets h

end Sys2Proof.Machine
end

section
/-! PROOFS. The bits and bytes of the registers: STATUS, INFO, the name, and the capability window (O36, O37, O43 to O45). -/

namespace Sys2Proof.Machine

/-! ### Flags and numbers in a register word -/

theorem getLsbD_flagAt (b : Bool) {n : Nat} (hn : n < 32) (i : Nat) : (flagAt b n).getLsbD i = (b && decide (i = n)) := by
  cases b with
  | false => simp [flagAt]
  | true =>
    simp only [flagAt, if_pos, BitVec.getLsbD_shiftLeft, BitVec.getLsbD_one, Bool.true_and]
    grind

/-- A number in the bits from `sh` on. -/
theorem getLsbD_ofNat_shiftLeft (v sh i : Nat) :
    (BitVec.ofNat 32 v <<< sh).getLsbD i = (decide (i < 32) && decide (sh ≤ i) && v.testBit (i - sh)) := by
  simp only [BitVec.getLsbD_shiftLeft, BitVec.getLsbD_ofNat]
  grind

/-- A field is the number whose bits it has. -/
theorem extractLsb'_eq_ofNat {w : Word} {start n v : Nat} (h : ∀ i < n, w.getLsbD (start + i) = v.testBit i) :
    w.extractLsb' start n = BitVec.ofNat n v := by
  refine BitVec.eq_of_getLsbD_eq fun i hi => ?_
  rw [BitVec.getLsbD_extractLsb', BitVec.getLsbD_ofNat, h i hi]

theorem toNat_extractLsb'_eq {w : Word} {start n v : Nat} (hv : v < 2 ^ n)
    (h : ∀ i < n, w.getLsbD (start + i) = v.testBit i) : (w.extractLsb' start n).toNat = v := by
  rw [extractLsb'_eq_ofNat h, BitVec.toNat_ofNat, Nat.mod_eq_of_lt hv]

/-! ### STATUS and INFO -/

theorem resultNumber_lt (r : ResultCode) : resultNumber r < 2 ^ 4 := by
  cases r <;> decide

theorem kindCode_lt (kind : Kind) : kindCode kind < 2 ^ 2 := by
  cases kind <;> decide

theorem vectorWidth_lt (kind : Kind) : vectorWidth kind < 2 ^ 8 := by
  cases kind <;> decide

/-- Every bit of STATUS (10_state.md R43). -/
theorem getLsbD_statusWord (c : Context) (i : Nat) :
    (statusWord c).getLsbD i =
      (busy c && decide (i = 0) || decide (i < 32) && decide (4 ≤ i) && (resultNumber c.code).testBit (i - 4) ||
        c.errSticky && decide (i = 8) || c.busyViol && decide (i = 9)) := by
  simp only [statusWord, BitVec.getLsbD_or, getLsbD_flagAt _ (by decide : 0 < 32), getLsbD_flagAt _ (by decide : 8 < 32),
    getLsbD_flagAt _ (by decide : 9 < 32), getLsbD_ofNat_shiftLeft]

/-- A number has no bit at or above its width. -/
theorem testBit_eq_false {v n i : Nat} (hv : v < 2 ^ n) (hi : n ≤ i) : v.testBit i = false :=
  Nat.testBit_lt_two_pow (lt_of_lt_of_le hv (Nat.pow_le_pow_right (by decide) hi))

/-- Settles O36. -/
theorem statusFields : Obligations.StatusFields := by
  intro c
  have hcode : ∀ i, 4 ≤ i → (resultNumber c.code).testBit i = false := fun i => testBit_eq_false (resultNumber_lt _)
  refine ⟨?busy, extractLsb'_eq_ofNat (v := 0) fun i hi => ?low, toNat_extractLsb'_eq (resultNumber_lt _) fun i hi => ?code,
    ?sticky, ?violation, extractLsb'_eq_ofNat (v := 0) fun i hi => ?high⟩ <;> rw [getLsbD_statusWord]
  case busy => simp [busy]
  case low => grind
  case code => grind
  case sticky => simp [hcode]
  case violation => simp [hcode]
  case high => grind

/-- Every bit of INFO (10_state.md R48). -/
theorem getLsbD_infoWord (c : Context) (i : Nat) :
    (infoWord c).getLsbD i =
      (decide (i < 32) && (if c.created then kindCode c.kind else 0).testBit i || c.created && decide (i = 4) ||
        c.useAlt && decide (i = 5) ||
        decide (i < 32) && decide (8 ≤ i) && (if c.created then vectorWidth c.kind else 0).testBit (i - 8)) := by
  have hkind : (if c.created then BitVec.ofNat 32 (kindCode c.kind) else 0) =
      BitVec.ofNat 32 (if c.created then kindCode c.kind else 0) := by split <;> rfl
  have hwidth : (if c.created then BitVec.ofNat 32 (vectorWidth c.kind) <<< 8 else 0) =
      BitVec.ofNat 32 (if c.created then vectorWidth c.kind else 0) <<< 8 := by split <;> rfl
  simp only [infoWord, hkind, hwidth, BitVec.getLsbD_or, getLsbD_flagAt _ (by decide : 4 < 32),
    getLsbD_flagAt _ (by decide : 5 < 32), getLsbD_ofNat_shiftLeft, BitVec.getLsbD_ofNat]

/-- Settles O37. -/
theorem infoFields : Obligations.InfoFields := by
  intro c
  have hkind : (if c.created then kindCode c.kind else 0) < 2 ^ 2 := by
    split
    · exact kindCode_lt _
    · decide
  have hwidth : (if c.created then vectorWidth c.kind else 0) < 2 ^ 8 := by
    split
    · exact vectorWidth_lt _
    · decide
  have hkindBit := fun i (hi : 2 ≤ i) => testBit_eq_false hkind hi
  have hwidthBit := fun i (hi : 8 ≤ i) => testBit_eq_false hwidth hi
  refine ⟨toNat_extractLsb'_eq hkind fun i hi => ?kind, extractLsb'_eq_ofNat (v := 0) fun i hi => ?gap1, ?created, ?useAlt,
    extractLsb'_eq_ofNat (v := 0) fun i hi => ?gap2, toNat_extractLsb'_eq hwidth fun i hi => ?width,
    extractLsb'_eq_ofNat (v := 0) fun i hi => ?high, by decide⟩ <;> rw [getLsbD_infoWord]
  case kind => grind
  case gap1 => grind
  case created => simp [hkindBit]
  case useAlt => simp [hkindBit]
  case gap2 => grind
  case width => grind
  case high => grind

/-! ### Strings of bytes -/

/-- Byte `k` of a word made of bytes. -/
theorem extractLsb'_wordOfBytes (f : Nat → Byte) {k : Nat} (hk : k < 4) :
    (wordOfBytes f).extractLsb' (8 * k) 8 = f k := by
  refine BitVec.eq_of_getLsbD_eq fun i hi => ?_
  simp only [wordOfBytes, BitVec.getLsbD_extractLsb', BitVec.getLsbD_append, hi]
  interval_cases k <;> grind

/-- Byte `j` of a packed string (20_memory.md R77). -/
theorem extractLsb'_stringWord (bs : List Byte) (j : Nat) :
    (stringWord bs (j / 4)).extractLsb' (8 * (j % 4)) 8 = stringByte bs j := by
  rw [stringWord, extractLsb'_wordOfBytes _ (Nat.mod_lt _ (by decide)), Nat.div_add_mod]

theorem stringByte_of_length_le {bs : List Byte} {j : Nat} (h : bs.length ≤ j) : stringByte bs j = 0 := by
  simp [stringByte, h]

theorem getElem?_eq_stringByte {bs : List Byte} {j : Nat} (h : j < bs.length) : bs[j]? = some (stringByte bs j) := by
  simp [stringByte, h]

/-! ### The name -/

theorem ctxReg_name {i : Nat} (hi : i < 8) : ctxReg (0x40 + 4 * i) = .name i := by
  interval_cases i <;> rfl

theorem nameBytes_length_le (p : Params) (c : Context) : (nameBytes p c).length ≤ 31 := by
  unfold nameBytes
  split
  · simp
  · simp

theorem implName_length_le {p : Params} (hp : p.wf) (kind : Kind) : (implName p kind).length ≤ 31 := by
  obtain ⟨h0, h1, h2⟩ := hp
  cases kind <;> assumption

/-- Byte `j` of the name: a legal name is not cut. -/
theorem stringByte_nameBytes {p : Params} (hp : p.wf) (c : Context) (j : Nat) :
    (stringByte (nameBytes p c) j).toNat = if c.created then ((implName p c.kind).getD j 0).toNat else 0 := by
  unfold nameBytes stringByte
  split
  · rw [List.take_of_length_le (implName_length_le hp _)]
    cases h : (implName p c.kind)[j]? with
    | none => simp [List.getD, h]
    | some b =>
      have hb : b.toNat % 2 ^ 8 = b.toNat := Nat.mod_eq_of_lt (b.isLt.trans (by decide))
      simpa [List.getD, h] using hb
  · simp

/-- Settles O43. -/
theorem nameRegisterBytes : Obligations.NameRegisterBytes := by
  intro p c j hp hj
  refine ⟨?_, fun _ => ?_⟩
  · rw [ctxReg_name (by omega)]
    exact (congrArg BitVec.toNat (extractLsb'_stringWord _ j)).trans (stringByte_nameBytes hp c j)
  · exact (extractLsb'_stringWord (nameBytes p c) 31).trans (stringByte_of_length_le (nameBytes_length_le p c))

/-! ### The capability window -/

theorem capReg_vendor {i : Nat} (hi : i < 3) : capReg (0x10 + 4 * i) = .vendor i := by
  interval_cases i <;> rfl

theorem capReg_brand {i : Nat} (hi : i < 12) : capReg (0x20 + 4 * i) = .brand i := by
  interval_cases i <;> rfl

theorem capReg_capOther {i : Nat} (hi : i < 4) : capReg (0x50 + 4 * i) = .capOther i := by
  interval_cases i <;> rfl

theorem stringWord_zero (n i : Nat) : stringWord (Bytes.zero n).toList i = 0 := by
  have hbyte : ∀ j, stringByte (Bytes.zero n).toList j = 0 := fun j => by
    by_cases hj : j < n
    · simp [stringByte, Bytes.zero, hj]
    · exact stringByte_of_length_le (by simpa [Bytes.zero] using hj)
  simp only [stringWord, hbyte]
  rfl

/-- In block reset every register of the capability window reads 0. -/
theorem capValue_zero (r : CapReg) : capValue Snapshot.zero r = 0 := by
  cases r with
  | capStatus => decide
  | vendor i => exact stringWord_zero 12 i
  | brand i => exact stringWord_zero 48 i
  | capOther i => simp [capValue, Snapshot.zero]
  | reserved => rfl

section
variable {s : State}

theorem capValue_inReset (h : s.phase ≠ .running) (r : CapReg) : capValue (capWindow s) r = 0 := by
  rw [capWindow_inReset h, capValue_zero]

/-- Outside block reset the window shows what the detector reports. -/
theorem capWindow_detect (hs : s.snapshotOk) (h : s.phase = .running) : capWindow s = detect s.params := by
  rw [capWindow_running h]
  simpa [State.snapshotOk, h] using hs

end

/-- Settles O44. -/
theorem vendorAndBrandBytes : Obligations.VendorAndBrandBytes := by
  intro s j hs
  refine ⟨fun hj => ⟨fun hp => ?_, fun hp => capValue_inReset hp _⟩,
    fun hj => ⟨fun hp => ?_, fun hp => capValue_inReset hp _⟩⟩
  · rw [capReg_vendor (by omega), capWindow_detect hs hp,
      getElem?_eq_stringByte (s.params.capVendor.length_eq.symm ▸ hj)]
    exact congrArg some (extractLsb'_stringWord _ j)
  · rw [capReg_brand (by omega), capWindow_detect hs hp,
      getElem?_eq_stringByte (s.params.capBrand.length_eq.symm ▸ hj)]
    exact congrArg some (extractLsb'_stringWord _ j)

/-- Every bit of CAP_STATUS (10_state.md R55). -/
theorem getLsbD_capStatusWord (snap : Snapshot) (i : Nat) :
    (capStatusWord snap).getLsbD i =
      (snap.valid && decide (i = 0) || snap.isIntel && decide (i = 1) || snap.isAmd && decide (i = 2) ||
        snap.sse2 && decide (i = 8) || snap.avx2 && decide (i = 9)) := by
  simp only [capStatusWord, BitVec.getLsbD_or, getLsbD_flagAt _ (by decide : 0 < 32), getLsbD_flagAt _ (by decide : 1 < 32),
    getLsbD_flagAt _ (by decide : 2 < 32), getLsbD_flagAt _ (by decide : 8 < 32), getLsbD_flagAt _ (by decide : 9 < 32)]

/-- Bit `n` of CAP_OTHER0 to CAP_OTHER3 (10_state.md R58). -/
theorem getLsbD_capOther (snap : Snapshot) (n : Nat) :
    (capValue snap (.capOther (n / 32))).getLsbD (n % 32) = snap.other.getLsbD n := by
  have hlt : n % 32 < 32 := Nat.mod_lt _ (by decide)
  rw [capValue, BitVec.getLsbD_extractLsb', decide_eq_true hlt, Bool.true_and, Nat.div_add_mod]

/-- Settles O45. -/
theorem capabilityFlagBits : Obligations.CapabilityFlagBits := by
  intro s hs
  refine ⟨fun hp => ?_, fun hp => ⟨capValue_inReset hp _, fun n _ => capValue_inReset hp _⟩⟩
  rw [capWindow_detect hs hp]
  have hstatus : capValue (detect s.params) (capReg 0x00) = capStatusWord (detect s.params) := rfl
  have hintel : (detect s.params).isIntel = decide (s.params.capVendor.toList = vendorIntel) := beq_eq_decide _ _
  have hamd : (detect s.params).isAmd = decide (s.params.capVendor.toList = vendorAmd) := beq_eq_decide _ _
  have hvendors : vendorIntel ≠ vendorAmd := by decide
  simp only [hstatus, getLsbD_capStatusWord]
  refine ⟨by simp [detect], by simp [hintel], by simp [hamd], by simp [detect], by simp [detect],
    fun n hn => ?others, ?vendors, fun n hn => ?other⟩
  case others =>
    simp only [List.mem_cons, List.not_mem_nil, or_false, not_or] at hn
    simp [hn]
  case vendors =>
    simp only [hintel, hamd]
    grind
  case other =>
    rw [capReg_capOther (by omega), getLsbD_capOther]
    rfl

end Sys2Proof.Machine
end

section
/-! PROOFS. The step of a placed word (O7), and block reset and the values it leaves (O55, O56). -/

namespace Sys2Proof.Machine

/-- The step of a context with a legal word in flight is the command of that word. -/
theorem perform_command {s : State} {k : Nat} {c : Context} {w : Word} {i : Instr} (hc : s.ctxs[k]? = some c)
    (hw : c.pending = some w) (hi : decode w = .ok i) : perform s k = exec i { s with active := k } := by
  simp [perform, hc, hw, hi]

/-- A number below 2^32 that decodes by the table's numbering of bits is a word that decodes. -/
theorem decode_of_decodeTableWord {w : Nat} {i : Instr} (hw : w < 2 ^ 32) (h : decodeTableWord 32 w = some i) :
    decode (BitVec.ofNat 32 w) = .ok i := by
  unfold decodeTableWord at h
  rw [Nat.mod_eq_of_lt hw, if_pos hw] at h
  split at h
  · next hi => exact hi.trans (congrArg _ (Option.some.inj h))
  · cases h

/-- Settles O7. -/
theorem fetchedWordRunsNext : Obligations.FetchedWordRunsNext := by
  intro s c cs w i hs hw hi
  rw [State.withFetchWord, Nat.mod_eq_of_lt hw]
  have hctxs : (fetchState s (BitVec.ofNat 32 w)).ctxs = startCommand c (BitVec.ofNat 32 w) :: cs := by
    simp [hs]
  calc step (fetchState s (BitVec.ofNat 32 w))
      = runEvent { fetchState s (BitVec.ofNat 32 w) with agenda := s.agenda } (.perform 0) := step_event rfl rfl
    _ = exec i { fetchState s (BitVec.ofNat 32 w) with agenda := s.agenda, active := 0 } :=
        perform_command (congrArg (·[0]?) hctxs) rfl (decode_of_decodeTableWord hw hi)
    _ = _ := congrArg (fun xs => exec i { s with phase := .running, active := 0, ctxs := xs }) hctxs

/-- A step until block reset has ended, as a step of a run. -/
theorem run_inReset {s : State} (n : Nat) (h : s.phase ≠ .running) :
    Host.Core.run core (n + 1) s = Host.Core.run core n (resetStage s) :=
  run_next n (step_inReset h)

/-- Settles O55: the event, then the three stages. -/
theorem blockResetReachesTheResetState : Obligations.BlockResetReachesTheResetState := by
  intro s rest hp
  rw [run_next 3 (step_cons hp), run_inReset 2 (by simp), resetStage_contexts rfl, run_inReset 1 (by simp),
    resetStage_detect rfl, run_inReset 0 (by simp), resetStage_finish rfl]
  rfl

/-- Every register of a context window reads 0 after reset (10_state.md R62). -/
theorem regValue_reset (p : Params) (r : CtxReg) : regValue p Context.reset r = 0 := by
  cases r with
  | name i => exact stringWord_zero 0 i
  | _ => rfl

/-- Settles O56. -/
theorem resetValues : Obligations.ResetValues := by
  refine ⟨List.length_replicate, rfl, rfl, fun c hc => ?_⟩
  obtain rfl : c = Context.reset := List.eq_of_mem_replicate hc
  refine ⟨rfl, rfl, rfl, rfl, rfl, fun b hb => ?_, fun b hb => ?_, rfl, rfl, rfl, rfl, regValue_reset _⟩
  · simp only [Context.reset, Key.zero, Bytes.zero, List.mem_append, or_self] at hb
    exact List.eq_of_mem_replicate hb
  · simp [Context.reset, Key.zero] at hb

end Sys2Proof.Machine
end

section
/-! PROOFS. Commands in flight keep their buffers disjoint (O59), and the races that the block refuses (O50, O51). -/

namespace Sys2Proof.Machine

/-! ### Ranges with a byte in common -/

theorem Span.overlaps_comm (x y : Span) : x.overlaps y = y.overlaps x := by
  simp only [Span.overlaps, max_comm, min_comm]

/-- A byte that both ranges have. -/
theorem Span.overlaps_of_mem {x y : Span} {a : Nat} (hx : x.start ≤ a) (hx' : a < x.start + x.len)
    (hy : y.start ≤ a) (hy' : a < y.start + y.len) : x.overlaps y = true :=
  decide_eq_true (lt_of_le_of_lt (max_le hx hy) (lt_min hx' hy'))

/-! ### The buffers of the commands in flight -/

/-- A context that may stand at number `k`: the buffer it has in flight, if any, overlaps that of no other context. -/
def FlightFits (s : State) (k : Nat) (d : Context) : Prop :=
  ∀ x, flightSpan d = some x → ∀ (j : Nat) (e : Context) (y : Span), j ≠ k → s.ctxs[j]? = some e →
    flightSpan e = some y → y.overlaps x = false

section
variable {s t : State} {k : Nat} {c d : Context}

/-- What stands at a number once one context has been replaced. -/
theorem getElem?_set_some {cs : List Context} {j : Nat} (h : (cs.set k d)[j]? = some c) :
    j = k ∧ c = d ∨ j ≠ k ∧ cs[j]? = some c := by
  by_cases hj : j = k
  · subst hj
    have hlt : j < (cs.set j d).length := (List.getElem?_eq_some_iff.mp h).1
    rw [List.getElem?_set_self (List.length_set ▸ hlt)] at h
    exact .inl ⟨rfl, (Option.some.inj h).symm⟩
  · exact .inr ⟨hj, (List.getElem?_set_ne (Ne.symm hj)).symm.trans h⟩

theorem FlightFits.of_idle (h : d.pending = none) : FlightFits s k d :=
  fun _ hx => absurd hx (by simp [flightSpan_of_idle h])

theorem FlightFits.of_same_flight (hs : s.flightsDisjoint) (hc : s.ctxs[k]? = some c)
    (h : flightSpan d = flightSpan c) : FlightFits s k d :=
  fun _ hx _ _ _ hj he hy => hs _ _ _ _ _ _ hj he hc hy (h.symm.trans hx)

theorem State.flightsDisjoint.congr (hs : s.flightsDisjoint) (h : t.ctxs = s.ctxs) : t.flightsDisjoint := by
  unfold State.flightsDisjoint
  rw [h]
  exact hs

/-- Replacing one context by one that fits. -/
theorem State.flightsDisjoint.set (hs : s.flightsDisjoint) (hd : FlightFits s k d) (h : t.ctxs = s.ctxs.set k d) :
    t.flightsDisjoint := by
  intro i j e f x y hij he hf hx hy
  rw [h] at he hf
  rcases getElem?_set_some he with ⟨rfl, rfl⟩ | ⟨hi, he'⟩
  · rcases getElem?_set_some hf with ⟨rfl, -⟩ | ⟨hj, hf'⟩
    · exact absurd rfl hij
    · exact (Span.overlaps_comm x y).trans (hd x hx j f y hj hf' hy)
  · rcases getElem?_set_some hf with ⟨rfl, rfl⟩ | ⟨-, hf'⟩
    · exact hd y hy i e x hi he' hx
    · exact hs i j e f x y hij he' hf' hx hy

/-- Contexts of which none has a command in flight. -/
theorem State.flightsDisjoint.of_idle (h : ∀ e ∈ s.ctxs, e.pending = none) : s.flightsDisjoint :=
  fun _ _ e _ _ _ _ he _ hx _ => absurd hx (by simp [flightSpan_of_idle (h e (List.mem_of_getElem? he))])

/-! ### What each step does to them -/

/-- A register read starts no command. -/
theorem readRegister_keeps_flightsDisjoint (hs : s.flightsDisjoint) (hc : s.ctxs[k]? = some c) (r : CtxReg) :
    (readRegister s k c r).flightsDisjoint := by
  rcases readRegister_cases s k c r with ⟨v, h⟩ | ⟨-, -, -, h⟩ | ⟨-, -, h⟩ <;> rw [h]
  · exact hs.congr rfl
  · exact hs.set (d := withBusyViolation c) (.of_same_flight hs hc rfl) rfl
  · exact hs.set (d := { c with owned := [] }) (.of_same_flight hs hc rfl) rfl

/-- A register write starts a command only where its buffer overlaps no other in flight (20_memory.md R87 b). -/
theorem writeRegister_keeps_flightsDisjoint {r : CtxReg} {v : Word} (hs : s.flightsDisjoint)
    (hc : s.ctxs[k]? = some c) (h : writeRegister s k c r v = .next t) : t.flightsDisjoint := by
  rcases writeRegister_next h with rfl | ⟨-, -, rfl⟩ | ⟨-, -, h⟩ | ⟨hb, d, rfl, hd⟩
  · exact hs.congr rfl
  · exact hs.set (d := withBusyViolation c) (.of_same_flight hs hc rfl) rfl
  · obtain ⟨rfl, hfree⟩ := acceptCommand_next h
    exact hs.set (d := startCommand c v) (fun x hx _ _ _ hj he hy => overlapsOther_false (hfree x hx) hj he hy) rfl
  · have hidle : d.pending = none := by
      rcases hd with rfl | rfl | rfl | rfl <;> exact busy_eq_false_iff.mp hb
    exact hs.set (d := d) (.of_idle hidle) rfl

/-- A performed command is in flight no longer. -/
theorem perform_keeps_flightsDisjoint (hs : s.flightsDisjoint) (h : perform s k = .next t) : t.flightsDisjoint := by
  rcases perform_frame h with rfl | ⟨c, d, m, r, -, -, rfl⟩
  · exact hs
  · exact hs.set (d := withResult d r) (.of_idle rfl) rfl

theorem runEvent_keeps_flightsDisjoint {e : Event} (hs : s.flightsDisjoint) (h : runEvent s e = .next t) :
    t.flightsDisjoint := by
  cases e with
  | regRead addr width =>
    rcases hostRegRead_next h with ⟨off, -, rfl⟩ | ⟨k, off, c, -, hc, rfl⟩
    · exact hs.congr rfl
    · exact readRegister_keeps_flightsDisjoint hs hc _
  | regWrite addr width v =>
    rcases hostRegWrite_next h with ⟨-, rfl⟩ | ⟨k, off, c, -, hc, h⟩
    · exact hs.congr rfl
    · exact writeRegister_keeps_flightsDisjoint hs hc h
  | memRead addr count =>
    obtain ⟨-, -, rfl⟩ := memAccess_next h
    exact hs.congr rfl
  | memWrite addr bs =>
    obtain ⟨-, -, rfl⟩ := memAccess_next h
    exact hs.congr rfl
  | perform k => exact perform_keeps_flightsDisjoint hs h
  | blockReset =>
    obtain rfl : beginReset s = t := Host.Outcome.next.inj h
    exact hs.congr rfl

/-- Block reset leaves the contexts alone or makes every one idle. -/
theorem resetStage_keeps_flightsDisjoint (hs : s.flightsDisjoint) : (resetStage s).flightsDisjoint := by
  by_cases hp : s.phase = .contexts
  · rw [resetStage_contexts hp]
    exact .of_idle fun e he => List.eq_of_mem_replicate he ▸ rfl
  · exact hs.congr (resetStage_ctxs hp)

end

/-- Settles O59: only an accepted CMD write puts a buffer in flight, and it is refused where the buffer overlaps another. -/
theorem stepKeepsFlightsDisjoint : Obligations.StepKeepsFlightsDisjoint := by
  intro s t hs h
  rcases step_next h with ⟨-, rfl⟩ | ⟨-, e, es, -, he⟩ | ⟨-, -, -, rfl⟩ | ⟨-, -, k, -, hk⟩
  · exact resetStage_keeps_flightsDisjoint hs
  · exact runEvent_keeps_flightsDisjoint (s := { s with agenda := es }) (hs.congr rfl) he
  · exact hs
  · exact perform_keeps_flightsDisjoint hs hk

/-! ### The races -/

/-- A host access to existing bytes of which an engine owns one is refused. -/
theorem memAccess_race {s : State} {x : Span} (t : State) (hin : x.start + x.len ≤ bufMemSize s.params)
    (h : racesWith s x = true) : memAccess s x t = .refused .bufferRace := by
  simp [memAccess, not_lt.mpr hin, h]

theorem racesWith_of_owned {s : State} {k : Nat} {c : Context} {x y : Span} (hc : s.ctxs[k]? = some c)
    (hy : y ∈ c.owned) (h : y.overlaps x = true) : racesWith s x = true :=
  List.any_eq_true.mpr ⟨c, List.mem_of_getElem? hc, List.any_eq_true.mpr ⟨y, hy, h⟩⟩

/-- Settles O50: read and write are one access to the same range. -/
theorem bufferRacesAreRefused : Obligations.BufferRacesAreRefused := by
  intro s k a x bs rest c y hp hin hc hy hax hxa hyx hxy
  have hrace : racesWith { s with agenda := rest } ⟨a, bs.length⟩ = true :=
    racesWith_of_owned (s := { s with agenda := rest }) hc hy (Span.overlaps_of_mem hyx hxy hax hxa)
  exact ⟨(step_cons hp).trans (memAccess_race _ hin hrace), (step_cons hp).trans (memAccess_race _ hin hrace)⟩

theorem overlapsOther_of_flight {s : State} {j k : Nat} {d : Context} {x y : Span} (hj : j ≠ k)
    (hd : s.ctxs[j]? = some d) (hy : flightSpan d = some y) (h : y.overlaps x = true) : overlapsOther s k x = true := by
  by_contra hn
  have hfree := overlapsOther_false (by simpa using hn) hj hd hy
  exact absurd (hfree.symm.trans h) (by simp)

theorem acceptCommand_overlap {s : State} {k : Nat} {c : Context} {w : Word} {x : Span}
    (hx : commandSpan w c.bufAddr c.len = some x) (h : overlapsOther s k x = true) :
    acceptCommand s k c w = .refused .overlappingCommands := by
  simp [acceptCommand, hx, h]

/-- Settles O51. -/
theorem overlappingCommandsAreRefused : Obligations.OverlappingCommandsAreRefused := by
  intro s j k x rest c d w y z hp hc hk hb ha hj hd hy hz hyx hxy hzx hxz
  have hrace : overlapsOther { s with agenda := rest } k y = true :=
    overlapsOther_of_flight (s := { s with agenda := rest }) hj hd hz (Span.overlaps_of_mem hzx hxz hyx hxy)
  have hstep := step_regWrite_context (v := w) (rest := rest) (off := 0) hp hc hk (by omega) ha
  exact hstep.trans ((writeRegister_cmd hb).trans (acceptCommand_overlap hy hrace))

end Sys2Proof.Machine
end

section
/-! PROOFS. One step that performs a command (O6), and BUFMEM as the host sees it (O49). -/

namespace Sys2Proof.Machine

/-- Settles O6. -/
theorem stepRunsTheDecodedCommand : Obligations.StepRunsTheDecodedCommand := by
  intro s k rest c w i hp hagenda hc hw hi
  calc step s = runEvent { s with agenda := rest } (.perform k) := step_event hp hagenda
    _ = _ := perform_command (s := { s with agenda := rest }) hc hw hi

/-- MemRead of the range of a MemWrite gives the bytes written (20_memory.md R72). -/
theorem Memory.readBytes_writeBytes (m : Memory) (a : Nat) (bs : List Byte) :
    Memory.readBytes (Memory.writeBytes m a bs) a bs.length = bs :=
  List.ext_getElem (Memory.readBytes_length _ _ _) fun i hi hi' => by
    rw [Memory.readBytes_getElem _ _ _ hi, Memory.read_writeBytes_inside _ _ _ hi']

/-- Settles O49: the write makes no race, so neither does the read of the same range. -/
theorem hostBufferWritesReadBack : Obligations.HostBufferWritesReadBack := by
  intro s a bs rest hp hin hrace
  refine ⟨Memory.writeBytes s.bufmem a bs, ?_, fun x hx => Memory.read_writeBytes_outside _ _ _ hx⟩
  have hwrite := (step_cons (s := s) (e := .memWrite a bs) (es := .memRead a bs.length :: rest) hp).trans
    (memAccess_eq (x := ⟨a, bs.length⟩) _ hin hrace)
  have hread := (step_cons (s := { s with bufmem := Memory.writeBytes s.bufmem a bs, reply := .none })
    (e := .memRead a bs.length) (es := rest) hp).trans (memAccess_eq (x := ⟨a, bs.length⟩) _ hin hrace)
  rw [run_next 1 hwrite]
  refine (run_next 0 hread).trans ?_
  exact congrArg (fun v => Host.Outcome.next
    { s with agenda := rest, bufmem := Memory.writeBytes s.bufmem a bs, reply := .bytes v })
    (Memory.readBytes_writeBytes _ _ _)

end Sys2Proof.Machine
end

section
/-! PROOFS. The vector block form computes the reference transform where the wrap windows are filled, and so a stream command
transforms its buffer byte by byte (O23, O24). -/

namespace Sys2Proof.Machine

/-! ### The reference transform -/

/-- The counter advances by one after each byte (R181). -/
theorem counter_succ (c : Counter) (i : Nat) : c + 1 + BitVec.ofNat 16 i = c + BitVec.ofNat 16 (i + 1) := by
  rw [BitVec.add_assoc, Nat.add_comm i 1, BitVec.ofNat_add]
  rfl

section
variable (k : Key)

/-- TRANSFORM byte by byte, each with its own counter value (R181, R182). -/
theorem transform_getElem? (c : Counter) (buf : List Byte) (i : Nat) :
    (transform k c buf).1[i]? = buf[i]?.map fun b => cipherByte b (c + BitVec.ofNat 16 i) k := by
  induction buf generalizing c i with
  | nil => simp
  | cons b bs ih =>
    rw [transform_cons]
    cases i with
    | zero => simp
    | succ i => simp only [List.getElem?_cons_succ, ih, counter_succ]

/-- The counter after TRANSFORM. -/
theorem transform_counter (c : Counter) (buf : List Byte) :
    (transform k c buf).2 = c + BitVec.ofNat 16 buf.length := by
  induction buf generalizing c with
  | nil => simp
  | cons b bs ih => rw [transform_cons, ih, List.length_cons, counter_succ]

/-- TRANSFORM of one buffer after another. -/
theorem transform_append (c : Counter) (buf rest : List Byte) :
    transform k c (buf ++ rest) =
      ((transform k c buf).1 ++ (transform k (c + BitVec.ofNat 16 buf.length) rest).1,
        (transform k (c + BitVec.ofNat 16 buf.length) rest).2) := by
  induction buf generalizing c with
  | nil => simp
  | cons b bs ih => simp only [List.cons_append, transform_cons, ih, List.length_cons, counter_succ]

end

/-! ### One vector block -/

/-- The nibble rotate in a byte lane (R192). -/
theorem vrot_eq_swap4 (b : Byte) : vrot b = swap4 b := by
  refine BitVec.eq_of_getLsbD_eq fun i hi => ?_
  interval_cases i <;> simp [vrot, swap4]

/-- A half followed by its wrap window is the half read round (R40, R189). -/
theorem extended_getD (kind : Kind) (h : Bytes 256) {i : Nat} (hi : i < 256 + (vectorWidth kind - 1)) :
    (extended h (wrapOf kind h)).getD i 0 = keyByte h (BitVec.ofNat 8 i) := by
  have hkey : h.toList[i % 256]? = some (keyByte h (BitVec.ofNat 8 i)) := by
    simpa using keyByte_getElem? h (BitVec.ofNat 8 i)
  have hext : (extended h (wrapOf kind h))[i]? = h.toList[i % 256]? := by
    have hw := vectorWidth_lt kind
    by_cases hlt : i < 256
    · rw [extended, List.getElem?_append_left (by rw [h.length_eq]; exact hlt), Nat.mod_eq_of_lt hlt]
    · rw [extended, List.getElem?_append_right (by rw [h.length_eq]; omega), h.length_eq, wrapOf,
        List.getElem?_take_of_lt (by omega), show i % 256 = i - 256 by omega]
  rw [List.getD_eq_getElem?_getD, hext, hkey, Option.getD_some]

section
variable (c : Counter)

theorem lo8_toNat : (lo8 c).toNat = c.toNat % 256 := by
  simp [lo8]

theorem hi8_toNat : (hi8 c).toNat = c.toNat / 256 := by
  have hlt := c.isLt
  simp [hi8, Nat.shiftRight_eq_div_pow]
  omega

/-- The low byte of an advanced counter: the index of VKEY1 (R190). -/
theorem lo8_add_ofNat (j : Nat) : lo8 (c + BitVec.ofNat 16 j) = BitVec.ofNat 8 ((lo8 c).toNat + j) := by
  refine BitVec.eq_of_toNat_eq ?_
  simp only [lo8_toNat, BitVec.toNat_add, BitVec.toNat_ofNat]
  omega

/-- The high byte of an advanced counter: one more where the low byte has passed a multiple of 256 (R191). -/
theorem hi8_add_ofNat {j : Nat} (hj : j < 256) :
    hi8 (c + BitVec.ofNat 16 j) =
      BitVec.ofNat 8 (if j < 256 - (lo8 c).toNat then (hi8 c).toNat else (hi8 c).toNat + 1) := by
  refine BitVec.eq_of_toNat_eq ?_
  have hlt := c.isLt
  simp only [lo8_toNat, hi8_toNat, BitVec.toNat_add, BitVec.toNat_ofNat]
  split <;> omega

end

section
variable {kind : Kind} {k : Key}

/-- VKEY1 holds the key byte of each counter value of the block (R190). -/
theorem vkey1_getElem (h : Bytes 256) (c : Counter) {j : Nat}
    (hj : j < (vkey1 (extended h (wrapOf kind h)) c (vectorWidth kind)).length) :
    (vkey1 (extended h (wrapOf kind h)) c (vectorWidth kind))[j] = keyByte h (lo8 (c + BitVec.ofNat 16 j)) := by
  have hw : j < vectorWidth kind := by simpa using hj
  have hlo := lo8_toNat c
  simp only [vkey1, List.getElem_map, List.getElem_range]
  rw [extended_getD kind h (by omega), lo8_add_ofNat]

/-- VKEY2 likewise (R191): a broadcast is the case of two runs in which the second is empty. -/
theorem vkey2_getElem (hkind : kind ≠ .standard) (h : Bytes 256) (c : Counter) {j : Nat}
    (hj : j < (vkey2 (extended h (wrapOf kind h)) c (vectorWidth kind)).length) :
    (vkey2 (extended h (wrapOf kind h)) c (vectorWidth kind))[j] = keyByte h (hi8 (c + BitVec.ofNat 16 j)) := by
  have hw : j < vectorWidth kind := by simpa using hj
  have hlt := vectorWidth_lt kind
  have hwide : 2 ≤ vectorWidth kind := by cases kind <;> simp [vectorWidth] at hkind ⊢
  have hhi := (hi8 c).isLt
  rw [hi8_add_ofNat c (by omega)]
  simp only [vkey2, List.getElem_map, List.getElem_range]
  by_cases hrun : j < 256 - (lo8 c).toNat
  · rw [if_pos (.inr hrun), if_pos hrun, extended_getD kind h (by omega)]
  · rw [if_neg (by omega), if_neg hrun, extended_getD kind h (by omega)]

/-- One vector block is the reference transform of its bytes (R193). -/
theorem vblock_eq_transform (hkind : kind ≠ .standard) (hk : k.wrapped kind) (c : Counter) {block : List Byte}
    (hlen : block.length = vectorWidth kind) : vblock k (vectorWidth kind) c block = (transform k c block).1 := by
  obtain ⟨hw1, hw2⟩ := hk
  refine List.ext_getElem (by simp [vblock, hlen]) fun j hj hj' => ?_
  have hjb : j < block.length := by simpa using hj'
  have href : (transform k c block).1[j] = cipherByte block[j] (c + BitVec.ofNat 16 j) k := by
    have hbyte := transform_getElem? k c block j
    rw [List.getElem?_eq_getElem hj', List.getElem?_eq_getElem hjb] at hbyte
    exact Option.some.inj hbyte
  rw [href]
  simp only [vblock, hw1, hw2, List.getElem_zipWith, vkey1_getElem, vkey2_getElem hkind, vrot_eq_swap4, cipherByte]
  exact (BitVec.xor_assoc _ _ _).symm

/-- The block loop is the reference transform: each block advances the counter by its length (R189, R193). -/
theorem vtransformBlocks_eq_transform (hkind : kind ≠ .standard) (hk : k.wrapped kind) (n : Nat) (c : Counter)
    (buf : List Byte) (hn : n * vectorWidth kind ≤ buf.length) :
    vtransformBlocks k (vectorWidth kind) n c buf = transform k c buf := by
  induction n generalizing c buf with
  | zero => rfl
  | succ n ih =>
    rw [Nat.succ_mul] at hn
    have hlen : (buf.take (vectorWidth kind)).length = vectorWidth kind := by
      rw [List.length_take]
      omega
    have hsplit := transform_append k c (buf.take (vectorWidth kind)) (buf.drop (vectorWidth kind))
    rw [List.take_append_drop, hlen] at hsplit
    rw [vtransformBlocks_succ, vblock_eq_transform hkind hk c hlen, ih _ _ (by rw [List.length_drop]; omega), hsplit]

/-- The engine of every variant computes the reference transform (R188). -/
theorem engineTransform_eq_transform (hk : k.wrapped kind) (c : Counter) (buf : List Byte) :
    engineTransform kind k c buf = transform k c buf := by
  have hblocks := fun hkind : kind ≠ .standard =>
    vtransformBlocks_eq_transform hkind hk (buf.length / vectorWidth kind) c buf (Nat.div_mul_le_self _ _)
  cases kind with
  | standard => rfl
  | vector128 => exact hblocks (by decide)
  | vector256 => exact hblocks (by decide)

end

/-! ### The stream commands -/

section
variable {p : Params} {s : State} {c : Context}

/-- CHECK_BUFFER passes a legal buffer (R186). -/
theorem checkBuffer_legal (haddr : c.lAddr ≠ 0) (hlen : 0 < c.lLen.toInt)
    (hin : bufferAddr c + bufferCount c ≤ bufMemSize p) : checkBuffer p c = none := by
  have hcount : (bufferCount c : Int) = bufferLen c := Int.toNat_of_nonneg hlen.le
  rcases checkBuffer_cases p c with ⟨-, h | h⟩ | ⟨-, -, -, h⟩ | ⟨h, -⟩
  · exact absurd h haddr
  · exact absurd hlen (not_lt.mpr h)
  · omega
  · exact h

/-- BUFMEM with the buffer of `c` transformed under `k` from the counter value `ctr` on, and nothing else changed. -/
def Transformed (c : Context) (k : Key) (ctr : Counter) (m m' : Memory) : Prop :=
  (∀ i, i < bufferCount c →
    Memory.read m' (bufferAddr c + i) = cipherByte (Memory.read m (bufferAddr c + i)) (ctr + BitVec.ofNat 16 i) k) ∧
  ∀ a, a < bufferAddr c ∨ bufferAddr c + bufferCount c ≤ a → Memory.read m' a = Memory.read m a

/-- Writing the transform of the buffer back in place. -/
theorem transformed_writeBytes (c : Context) (k : Key) (ctr : Counter) (m : Memory) :
    Transformed c k ctr m (Memory.writeBytes m (bufferAddr c)
      (transform k ctr (Memory.readBytes m (bufferAddr c) (bufferCount c))).1) := by
  refine ⟨fun i hi => ?_, fun a ha => Memory.read_writeBytes_outside _ _ _ (by simpa using ha)⟩
  have hbuf : i < (Memory.readBytes m (bufferAddr c) (bufferCount c)).length := by simpa using hi
  have hout : i < (transform k ctr (Memory.readBytes m (bufferAddr c) (bufferCount c))).1.length := by simpa using hi
  have hbyte := transform_getElem? k ctr (Memory.readBytes m (bufferAddr c) (bufferCount c)) i
  rw [List.getElem?_eq_getElem hout, List.getElem?_eq_getElem hbuf, Memory.readBytes_getElem _ _ _ hbuf] at hbyte
  rw [Memory.read_writeBytes_inside _ _ _ hout]
  exact Option.some.inj hbyte

section
variable {k : Key} {ctr : Counter} {commit : Counter → Context}

theorem streamCommand_notCreated (hcreated : c.created = false) :
    streamCommand s c k ctr commit = raiseError s c .notCreated :=
  ifCreated_none hcreated

theorem streamCommand_rejected {e : ResultCode} (hcreated : c.created = true) (hcheck : checkBuffer s.params c = some e) :
    streamCommand s c k ctr commit = raiseError s c e := by
  simp [streamCommand, hcreated, hcheck]

theorem streamCommand_passed (hcreated : c.created = true) (hcheck : checkBuffer s.params c = none) :
    streamCommand s c k ctr commit =
      endCommand s (commit (engineTransform c.kind k ctr (Memory.readBytes s.bufmem (bufferAddr c) (bufferCount c))).2)
        (Memory.writeBytes s.bufmem (bufferAddr c)
          (engineTransform c.kind k ctr (Memory.readBytes s.bufmem (bufferAddr c) (bufferCount c))).1) .ok := by
  simp [streamCommand, hcreated, hcheck]

end

/-- A stream command of a legal buffer under a key with its wrap windows ends OK with the buffer transformed. -/
theorem streamCommand_legal {k : Key} (ctr : Counter) (commit : Counter → Context) (hcreated : c.created = true)
    (hk : k.wrapped c.kind) (haddr : c.lAddr ≠ 0) (hlen : 0 < c.lLen.toInt)
    (hin : bufferAddr c + bufferCount c ≤ bufMemSize s.params) :
    ∃ m, streamCommand s c k ctr commit = endCommand s (commit (ctr + BitVec.ofNat 16 (bufferCount c))) m .ok ∧
      Transformed c k ctr s.bufmem m := by
  refine ⟨_, ?_, transformed_writeBytes c k ctr s.bufmem⟩
  rw [streamCommand_passed hcreated (checkBuffer_legal haddr hlen hin), engineTransform_eq_transform hk,
    transform_counter, Memory.readBytes_length]

/-- A command that ends OK leaves ERR_STICKY as it is. -/
theorem withResult_ok (d : Context) : withResult d .ok = { d with code := .ok, pending := none } := by
  simp [withResult]

theorem endCommand_ok (d : Context) (m : Memory) :
    endCommand s d m .ok =
      { s with ctxs := s.ctxs.set s.active { d with code := .ok, pending := none }, bufmem := m } := by
  simp [endCommand, setCtx, withResult_ok]

/-- ENCRYPT of a legal buffer (R184). -/
theorem exec_encrypt_legal (hc : s.ctxs[s.active]? = some c) (hk : c.base.wrapped c.kind) (hcreated : c.created = true)
    (haddr : c.lAddr ≠ 0) (hlen : 0 < c.lLen.toInt) (hin : bufferAddr c + bufferCount c ≤ bufMemSize s.params) :
    ∃ m, exec .encrypt s = .next
        { s with
          ctxs := s.ctxs.set s.active
            { c with encCtr := c.encCtr + BitVec.ofNat 16 (bufferCount c), code := .ok, pending := none },
          bufmem := m } ∧ Transformed c c.base c.encCtr s.bufmem m := by
  obtain ⟨m, h, hm⟩ := streamCommand_legal c.encCtr (fun n => { c with encCtr := n }) hcreated hk haddr hlen hin
  exact ⟨m, (inActive_eq _ hc).trans (congrArg _ (h.trans (endCommand_ok _ m))), hm⟩

end

/-- Settles O23. -/
theorem encryptTransformsTheBuffer : Obligations.EncryptTransformsTheBuffer := by
  intro s c hs hc hcreated haddr hlen hin
  exact exec_encrypt_legal hc (hs.context hc).baseWrapped hcreated haddr hlen hin

/-- Both keys that DECRYPT selects from have their wrap windows. -/
theorem decryptKey_wrapped {c : Context} (h : c.Inv) : (decryptKey c).wrapped c.kind := by
  unfold decryptKey
  split
  · exact h.altWrapped
  · exact h.baseWrapped

/-- Settles O24. -/
theorem decryptTransformsTheBuffer : Obligations.DecryptTransformsTheBuffer := by
  intro s c hs hc hcreated haddr hlen hin
  obtain ⟨m, h, hm⟩ := streamCommand_legal c.decCtr (fun n => { c with decCtr := n }) hcreated
    (decryptKey_wrapped (hs.context hc)) haddr hlen hin
  exact ⟨m, (inActive_eq _ hc).trans (congrArg _ (h.trans (endCommand_ok _ m))), hm⟩

end Sys2Proof.Machine
end

section
/-! PROOFS. What a command reads and writes, said for every state it could run in, and so commands in flight commute (O54). -/

namespace Sys2Proof.Machine

/-! ### Two writes of BUFMEM -/

/-- What an address reads as after a write depends on what it read as before, and on nothing else of BUFMEM. -/
theorem Memory.read_writeBytes_congr {m m' : Memory} (a : Nat) (bs : List Byte) {x : Nat}
    (h : Memory.read m x = Memory.read m' x) :
    Memory.read (Memory.writeBytes m a bs) x = Memory.read (Memory.writeBytes m' a bs) x := by
  by_cases hx : x < a ∨ a + bs.length ≤ x
  · rw [Memory.read_writeBytes_outside _ _ _ hx, Memory.read_writeBytes_outside _ _ _ hx, h]
  · obtain ⟨i, rfl⟩ := Nat.exists_eq_add_of_le (by omega : a ≤ x)
    have hi : i < bs.length := by omega
    rw [Memory.read_writeBytes_inside _ _ _ hi, Memory.read_writeBytes_inside _ _ _ hi]

/-- Writes of ranges without a byte in common commute. -/
theorem Memory.writeBytes_comm {m : Memory} (hm : m.wf) {a b : Nat} {as bs : List Byte}
    (h : ∀ x, a ≤ x → x < a + as.length → x < b ∨ b + bs.length ≤ x) :
    Memory.writeBytes (Memory.writeBytes m a as) b bs = Memory.writeBytes (Memory.writeBytes m b bs) a as := by
  refine Memory.ext_of_read (Memory.wf_writeBytes (Memory.wf_writeBytes hm _ _) _ _)
    (Memory.wf_writeBytes (Memory.wf_writeBytes hm _ _) _ _) fun x => ?_
  by_cases hx : x < a ∨ a + as.length ≤ x
  · rw [Memory.read_writeBytes_outside _ a as hx]
    exact Memory.read_writeBytes_congr b bs (Memory.read_writeBytes_outside m a as hx)
  · have hout := h x (by omega) (by omega)
    rw [Memory.read_writeBytes_outside _ b bs hout]
    exact Memory.read_writeBytes_congr a as (Memory.read_writeBytes_outside m b bs hout).symm

/-! ### One command, in every state that gives it the same inputs -/

/-- The commands that use a buffer of BUFMEM. -/
def UsesBuffer (i : Instr) : Prop := i = .encrypt ∨ i = .decrypt

/-- `t` gives the command `i` of the context `c` what `s` gives it: the parameters, the snapshot, and the bytes of its buffer if
it has one. -/
structure SameInputs (i : Instr) (c : Context) (s t : State) : Prop where
  params : t.params = s.params
  snap : t.snap = s.snap
  buffer : UsesBuffer i → Memory.readBytes t.bufmem (bufferAddr c) (bufferCount c) =
    Memory.readBytes s.bufmem (bufferAddr c) (bufferCount c)

/-- `f` is a command of `c` that ends alike in every state with the inputs of `s`: the same context, the same result, the same
bytes written to its buffer, or none. -/
def EndsAlike (i : Instr) (c : Context) (s : State) (f : State → State) : Prop :=
  ∃ (d : Context) (bs : List Byte) (r : ResultCode), (bs = [] ∨ UsesBuffer i ∧ bs.length = bufferCount c) ∧
    ∀ t, SameInputs i c s t → f t = endCommand t d (Memory.writeBytes t.bufmem (bufferAddr c) bs) r

section
variable {i : Instr} {c d : Context} {s : State} {f : State → State} {r : ResultCode}

/-- A command that writes no byte of BUFMEM. -/
theorem EndsAlike.of_endCommand (h : ∀ t, SameInputs i c s t → f t = endCommand t d t.bufmem r) : EndsAlike i c s f :=
  ⟨d, [], r, .inl rfl, h⟩

theorem EndsAlike.ifCreated (h : EndsAlike i c s f) : EndsAlike i c s fun t => ifCreated t c (f t) := by
  cases hc : c.created with
  | false => exact .of_endCommand fun t _ => ifCreated_none hc
  | true =>
    obtain ⟨d, bs, r, hbs, hf⟩ := h
    exact ⟨d, bs, r, hbs, fun t ht => (ifCreated_created hc).trans (hf t ht)⟩

/-- A stream command reads its buffer alone, and writes it back in full. -/
theorem EndsAlike.streamCommand (hi : UsesBuffer i) (k : Key) (ctr : Counter) (commit : Counter → Context) :
    EndsAlike i c s fun t => streamCommand t c k ctr commit := by
  cases hcreated : c.created with
  | false => exact .of_endCommand fun t _ => streamCommand_notCreated hcreated
  | true =>
    cases hcheck : checkBuffer s.params c with
    | some e => exact .of_endCommand fun t ht => streamCommand_rejected hcreated (ht.params ▸ hcheck)
    | none =>
      let out := engineTransform c.kind k ctr (Memory.readBytes s.bufmem (bufferAddr c) (bufferCount c))
      refine ⟨commit out.2, out.1, .ok, .inr ⟨hi, by simp [out]⟩, fun t ht => ?_⟩
      exact (streamCommand_passed hcreated (ht.params ▸ hcheck)).trans (by rw [ht.buffer hi])

/-- Every command ends alike where it has the same inputs. -/
theorem exec_endsAlike (i : Instr) (c : Context) (s : State) :
    ∃ f, EndsAlike i c s f ∧ ∀ t : State, t.ctxs[t.active]? = some c → exec i t = .next (f t) := by
  cases i with
  | createDefault =>
    refine ⟨_, .of_endCommand (d := construct s.params c (best s.snap)) (r := .ok) fun t ht => ?_,
      fun t hc => inActive_eq _ hc⟩
    rw [ht.params, ht.snap]
  | create var =>
    refine ⟨_, ?_, fun t hc => inActive_eq _ hc⟩
    cases kindOfCode var with
    | none => exact .of_endCommand fun t _ => rfl
    | some kind =>
      cases hsup : supported s.snap kind with
      | false =>
        refine .of_endCommand (d := unconstruct c) (r := .unsupportedVariant) fun t ht => ?_
        simp only [ht.snap, hsup]
        rfl
      | true =>
        refine .of_endCommand (d := construct s.params c kind) (r := .ok) fun t ht => ?_
        simp only [ht.snap, ht.params, hsup]
        rfl
  | genKey => exact ⟨_, .ifCreated (.of_endCommand fun t _ => rfl), fun t hc => inActive_eq _ hc⟩
  | genAltKey => exact ⟨_, .ifCreated (.of_endCommand fun t _ => rfl), fun t hc => inActive_eq _ hc⟩
  | encrypt => exact ⟨_, .streamCommand (.inl rfl) _ _ _, fun t hc => inActive_eq _ hc⟩
  | decrypt => exact ⟨_, .streamCommand (.inr rfl) _ _ _, fun t hc => inActive_eq _ hc⟩
  | resetCounters => exact ⟨_, .ifCreated (.of_endCommand fun t _ => rfl), fun t hc => inActive_eq _ hc⟩

end

/-! ### Performing the command in flight -/

/-- A positive length is the same number with and without sign. -/
theorem toNat_toInt_of_pos {len : Word} (h : 0 < len.toInt) : len.toInt.toNat = len.toNat := by
  rw [BitVec.toInt_eq_toNat_cond] at h ⊢
  split at h <;> split <;> omega

/-- The buffer of an ENCRYPT or DECRYPT of positive length. -/
theorem commandSpan_of_usesBuffer {i : Instr} {w addr len : Word} (hw : decode w = .ok i) (hi : UsesBuffer i)
    (hlen : 0 < len.toInt) : commandSpan w addr len = some ⟨addr.toNat, len.toNat⟩ := by
  rcases hi with rfl | rfl <;> simp [commandSpan, hw, hlen]

section
variable {i : Instr} {c d : Context} {s t : State} {k : Nat} {w : Word} {bs : List Byte}

/-- The buffer in flight of an ENCRYPT or DECRYPT, unless it has no byte. -/
theorem flightSpan_of_usesBuffer (hw : c.pending = some w) (hi : decode w = .ok i) (hs : UsesBuffer i) :
    bufferCount c = 0 ∨ flightSpan c = some ⟨bufferAddr c, bufferCount c⟩ := by
  by_cases hlen : 0 < c.lLen.toInt
  · right
    have hcount : bufferCount c = c.lLen.toNat := toNat_toInt_of_pos hlen
    rw [flightSpan, hw, hcount]
    exact commandSpan_of_usesBuffer hi hs hlen
  · exact .inl (Int.toNat_of_nonpos (not_lt.mp hlen))

/-- `t` gives the command that `c` has in flight what `s` gives it. -/
structure SameFlight (c : Context) (s t : State) : Prop where
  params : t.params = s.params
  snap : t.snap = s.snap
  buffer : ∀ x, flightSpan c = some x →
    Memory.readBytes t.bufmem x.start x.len = Memory.readBytes s.bufmem x.start x.len

theorem SameFlight.sameInputs (h : SameFlight c s t) (hw : c.pending = some w) (hi : decode w = .ok i) :
    SameInputs i c s t where
  params := h.params
  snap := h.snap
  buffer hs := by
    rcases flightSpan_of_usesBuffer hw hi hs with hzero | hspan
    · rw [hzero]
      rfl
    · exact h.buffer _ hspan

/-- `s` after context `k`, which was `c`, has become `d` and `bs` has been written to its buffer. -/
def afterFlight (s : State) (k : Nat) (c d : Context) (bs : List Byte) (active : Nat) : State :=
  { s with active, ctxs := s.ctxs.set k d, bufmem := Memory.writeBytes s.bufmem (bufferAddr c) bs }

/-- Performing the command of context `k` leads there. -/
def Performs (k : Nat) (c d : Context) (bs : List Byte) (s : State) : Prop :=
  ∃ a, perform s k = .next (afterFlight s k c d bs a)

theorem Performs.step {es : List Event} (h : Performs k c d bs { s with agenda := es }) (hp : s.phase = .running)
    (ha : s.agenda = .perform k :: es) : ∃ a, step s = .next (afterFlight { s with agenda := es } k c d bs a) :=
  h.imp fun _ hperform => (step_event hp ha).trans hperform

/-- The command that `c` has in flight as context `k`, in every state that gives it the inputs of `s`: it makes `c` the context
`d`, and writes `bs` to its buffer, or no byte at all. -/
structure FlightEffect (s : State) (k : Nat) (c d : Context) (bs : List Byte) : Prop where
  within : bs = [] ∨ flightSpan c = some ⟨bufferAddr c, bs.length⟩
  performs : ∀ t, SameFlight c s t → t.ctxs[k]? = some c → Performs k c d bs t

/-- Every context has such an effect: none where it is idle, the error where its word is illegal, and else its command's. -/
theorem exists_flightEffect (s : State) (k : Nat) (c : Context) : ∃ d bs, FlightEffect s k c d bs := by
  cases hw : c.pending with
  | none =>
    refine ⟨c, [], .inl rfl, fun t _ hc => ⟨t.active, ?_⟩⟩
    calc perform t k = .next t := by simp [perform, hc, hw]
      _ = _ := congrArg Host.Outcome.next (setCtx_same hc).symm
  | some w =>
    cases hi : decode w with
    | error e =>
      exact ⟨withResult c .illegalCommand, [], .inl rfl, fun t _ hc => ⟨k, by simp [perform, hc, hw, hi]; rfl⟩⟩
    | ok i =>
      obtain ⟨f, ⟨d, bs, r, hbs, halike⟩, hexec⟩ := exec_endsAlike i c s
      refine ⟨withResult d r, bs, ?_, fun t ht hc => ⟨k, ?_⟩⟩
      · rcases hbs with hnil | ⟨hstream, hlen⟩
        · exact .inl hnil
        · rw [hlen]
          exact (flightSpan_of_usesBuffer hw hi hstream).imp_left fun hzero =>
            List.eq_nil_of_length_eq_zero (hlen.trans hzero)
      · have hin := ht.sameInputs hw hi
        calc perform t k = exec i { t with active := k } := perform_command hc hw hi
          _ = .next (f { t with active := k }) := hexec _ hc
          _ = _ := congrArg Host.Outcome.next (halike _ ⟨hin.params, hin.snap, hin.buffer⟩)

end

/-! ### Two commands in flight -/

section
variable {s : State} {j k : Nat} {c c' d d' : Context} {bs ds : List Byte}

/-- What one of two commands writes lies outside the other's buffer (20_memory.md R87 b). -/
theorem FlightEffect.outside (hbs : FlightEffect s j c c' bs) (hs : s.flightsDisjoint) (hjk : j ≠ k)
    (hc : s.ctxs[j]? = some c) (hd : s.ctxs[k]? = some d) {y : Span} (hy : flightSpan d = some y) {a : Nat}
    (hya : y.start ≤ a) (hay : a < y.start + y.len) : a < bufferAddr c ∨ bufferAddr c + bs.length ≤ a := by
  rcases hbs.within with rfl | hx
  · exact lt_or_ge a (bufferAddr c)
  · by_contra hin
    push Not at hin
    obtain ⟨hle, hlt⟩ := hin
    have hfree := hs j k c d _ y hjk hc hd hx hy
    have hover := Span.overlaps_of_mem (x := ⟨bufferAddr c, bs.length⟩) hle hlt hya hay
    exact absurd (hfree.symm.trans hover) (by simp)

/-- Performed one after the other, the second command has the inputs it would have had alone. -/
theorem run_two_performs (hp : s.phase = .running) (hs : s.flightsDisjoint) (hjk : j ≠ k) (hc : s.ctxs[j]? = some c)
    (hd : s.ctxs[k]? = some d) (hbs : FlightEffect s j c c' bs) (hds : FlightEffect s k d d' ds) :
    ∃ t, Host.Core.run core 2 { s with agenda := [.perform j, .perform k] } = .next t ∧
      t.ctxs = (s.ctxs.set j c').set k d' ∧
      t.bufmem = Memory.writeBytes (Memory.writeBytes s.bufmem (bufferAddr c) bs) (bufferAddr d) ds := by
  obtain ⟨a, hfirst⟩ := (hbs.performs { s with agenda := [.perform k] } ⟨rfl, rfl, fun _ _ => rfl⟩ hc).step
    (s := { s with agenda := [.perform j, .perform k] }) hp rfl
  have hsame : SameFlight d s { afterFlight s j c c' bs a with agenda := [] } :=
    ⟨rfl, rfl, fun y hy => Memory.readBytes_congr fun x hyx hxy =>
      Memory.read_writeBytes_outside _ _ _ (hbs.outside hs hjk hc hd hy hyx hxy)⟩
  obtain ⟨b, hsecond⟩ := (hds.performs _ hsame ((List.getElem?_set_ne hjk).trans hd)).step
    (s := { afterFlight s j c c' bs a with agenda := [.perform k] }) hp rfl
  exact ⟨_, (run_next 1 hfirst).trans (run_next 0 hsecond), rfl, rfl⟩

end

/-- Settles O54: either order replaces the same two contexts and writes the same two ranges, which have no byte in common. -/
theorem disjointCommandsCommute : Obligations.DisjointCommandsCommute := by
  intro s j k hinv hs hp hjk hj hk
  obtain ⟨c, hc⟩ : ∃ c, s.ctxs[j]? = some c := ⟨_, List.getElem?_eq_getElem (hinv.count.symm ▸ hj)⟩
  obtain ⟨d, hd⟩ : ∃ d, s.ctxs[k]? = some d := ⟨_, List.getElem?_eq_getElem (hinv.count.symm ▸ hk)⟩
  obtain ⟨c', bs, hbs⟩ := exists_flightEffect s j c
  obtain ⟨d', ds, hds⟩ := exists_flightEffect s k d
  obtain ⟨t, ht, htctxs, htmem⟩ := run_two_performs hp hs hjk hc hd hbs hds
  obtain ⟨u, hu, huctxs, humem⟩ := run_two_performs hp hs (Ne.symm hjk) hd hc hds hbs
  refine ⟨t, u, ht, hu, ?_, ?_⟩
  · rw [htctxs, huctxs, List.set_comm _ _ hjk]
  · rw [htmem, humem]
    refine Memory.writeBytes_comm hinv.memory fun x hx hx' => ?_
    rcases hbs.within with rfl | hspan
    · exact absurd hx' (by simpa using hx)
    · exact hds.outside hs (Ne.symm hjk) hd hc hspan hx hx'

end Sys2Proof.Machine
end

section
/-! PROOFS. The pseudo-instruction `encrypt addr, len` runs to completion (O60). -/

namespace Sys2Proof.Machine

section
variable {s t : State} {k : Nat} {c : Context} {w addr len : Word} {es : List Event}

/-- A run of `m + n` steps of which the first `m` have been taken. -/
theorem run_add {m : Nat} (n : Nat) (h : Host.Core.run core m s = .next t) :
    Host.Core.run core (m + n) s = Host.Core.run core n t := by
  induction m generalizing s with
  | zero =>
    obtain rfl := Host.Outcome.next.inj h
    rw [Nat.zero_add]
  | succ m ih =>
    rw [Nat.add_right_comm]
    cases hs : step s with
    | next u =>
      rw [run_next _ hs] at h ⊢
      exact ih h
    | fault r => simp [Host.Core.run, core, hs] at h
    | refused r => simp [Host.Core.run, core, hs] at h

/-! ### The writes that start a stream command -/

/-- Windows start at multiples of 4 where the block does. -/
theorem windowAddr_aligned {p : Params} (h : p.blockBase % 4 = 0) (k : Nat) {off : Nat} (hoff : off % 4 = 0) :
    (p.blockBase + 0x100 * (k + 1) + off) % 4 = 0 := by
  omega

section
variable (hp : s.phase = .running) (hc : s.ctxs[k]? = some c) (hk : k < nCtx s.params)
  (halign : s.params.blockBase % 4 = 0) (hb : c.pending = none)
include hp hc hk halign hb

theorem step_write_bufAddr :
    step { s with agenda := .regWrite (windowAddr s.params (.context k) 0x10) 4 addr :: es } =
      .next { s with agenda := es, ctxs := s.ctxs.set k { c with bufAddr := addr }, reply := .none } :=
  (step_regWrite_context hp hc hk (by decide) (windowAddr_aligned halign k rfl)).trans
    (by simp [ctxReg, writeRegister, setCtx, hb])

theorem step_write_len :
    step { s with agenda := .regWrite (windowAddr s.params (.context k) 0x14) 4 len :: es } =
      .next { s with agenda := es, ctxs := s.ctxs.set k { c with len := len }, reply := .none } :=
  (step_regWrite_context hp hc hk (by decide) (windowAddr_aligned halign k rfl)).trans
    (by simp [ctxReg, writeRegister, setCtx, hb])

theorem step_write_cmd (hfree : ∀ x, commandSpan w c.bufAddr c.len = some x → ∀ j d y, j ≠ k → s.ctxs[j]? = some d →
      flightSpan d = some y → y.overlaps x = false) :
    step { s with agenda := .regWrite (windowAddr s.params (.context k) 0x00) 4 w :: es } =
      .next { s with agenda := es, ctxs := s.ctxs.set k (startCommand c w), reply := .none } :=
  (step_regWrite_context hp hc hk (by decide) (windowAddr_aligned halign k rfl)).trans
    ((writeRegister_cmd hb).trans (acceptCommand_eq fun x hx => overlapsOther_eq_false (hfree x hx)))

/-- BUF_ADDR, LEN, and a CMD write that makes no race (R110). -/
theorem run_startStream (hfree : ∀ x, commandSpan w addr len = some x → ∀ j d y, j ≠ k → s.ctxs[j]? = some d →
      flightSpan d = some y → y.overlaps x = false) :
    Host.Core.run core 3
        { s with
          agenda :=
            .regWrite (windowAddr s.params (.context k) 0x10) 4 addr ::
              .regWrite (windowAddr s.params (.context k) 0x14) 4 len ::
                .regWrite (windowAddr s.params (.context k) 0x00) 4 w :: es } =
      .next
        { s with
          agenda := es, ctxs := s.ctxs.set k (startCommand { c with bufAddr := addr, len := len } w),
          reply := .none } := by
  have hlen := step_write_len (s := { s with ctxs := s.ctxs.set k { c with bufAddr := addr }, reply := .none })
    (len := len) (es := .regWrite (windowAddr s.params (.context k) 0x00) 4 w :: es) hp (getElem?_set_same hc _) hk
    halign hb
  have hcmd := step_write_cmd
    (s := { s with ctxs := s.ctxs.set k { c with bufAddr := addr, len := len }, reply := .none })
    (w := w) (es := es) hp (getElem?_set_same hc _) hk halign hb
    fun x hx j d y hj hd hy => hfree x hx j d y hj ((List.getElem?_set_ne (Ne.symm hj)).symm.trans hd) hy
  simp only [List.set_set] at hlen hcmd
  rw [run_next 2 (step_write_bufAddr hp hc hk halign hb), run_next 1 hlen]
  exact run_next 0 hcmd

end

/-! ### WAIT -/

/-- A STATUS read of an idle context (20_memory.md R85). -/
theorem step_read_status (hp : s.phase = .running) (hc : s.ctxs[k]? = some c) (hk : k < nCtx s.params)
    (halign : s.params.blockBase % 4 = 0) (hb : c.pending = none) :
    step { s with agenda := .regRead (windowAddr s.params (.context k) 0x04) 4 :: es } =
      .next
        { s with agenda := es, ctxs := s.ctxs.set k { c with owned := [] }, reply := .word (statusWord c) } :=
  (step_regRead_context hp hc hk (by decide) (windowAddr_aligned halign k rfl)).trans
    (congrArg Host.Outcome.next (readRegister_status_idle hb))

/-- The step of an ENCRYPT of a legal buffer that context `k` has in flight, then the STATUS read (R110, log 11). -/
theorem run_waitEncrypt (hp : s.phase = .running) (hc : s.ctxs[k]? = some c) (hk : k < nCtx s.params)
    (halign : s.params.blockBase % 4 = 0) (hw : c.pending = some (encode .encrypt)) (hkey : c.base.wrapped c.kind)
    (hcreated : c.created = true) (haddr : c.lAddr ≠ 0) (hlen : 0 < c.lLen.toInt)
    (hin : bufferAddr c + bufferCount c ≤ bufMemSize s.params) :
    ∃ t d, Host.Core.run core 2
        { s with agenda := .perform k :: .regRead (windowAddr s.params (.context k) 0x04) 4 :: es } = .next t ∧
      t.agenda = es ∧ t.ctxs = s.ctxs.set k d ∧ t.reply = .word (statusWord d) ∧
      d = { c with
            encCtr := c.encCtr + BitVec.ofNat 16 (bufferCount c), code := .ok, pending := none, owned := [] } ∧
      Transformed c c.base c.encCtr s.bufmem t.bufmem := by
  let read := Event.regRead (windowAddr s.params (.context k) 0x04) 4
  obtain ⟨m, hexec, hm⟩ :=
    exec_encrypt_legal (s := { s with agenda := read :: es, active := k }) hc hkey hcreated haddr hlen hin
  let e : Context :=
    { c with encCtr := c.encCtr + BitVec.ofNat 16 (bufferCount c), code := .ok, pending := none }
  have hperform : step { s with agenda := .perform k :: read :: es } =
      .next { s with agenda := read :: es, active := k, ctxs := s.ctxs.set k e, bufmem := m } :=
    (step_cons hp).trans ((perform_command (s := { s with agenda := read :: es }) hc hw rfl).trans hexec)
  have hstatus := step_read_status (s := { s with active := k, ctxs := s.ctxs.set k e, bufmem := m }) (es := es) hp
    (getElem?_set_same hc e) hk halign rfl
  rw [List.set_set] at hstatus
  exact ⟨_, { e with owned := [] }, (run_next 1 hperform).trans (run_next 0 hstatus), rfl, rfl, rfl, rfl, hm⟩

end

/-- Settles O60: the three writes put ENCRYPT in flight, and WAIT performs it and observes its end. -/
theorem encryptScriptRunsToCompletion : Obligations.EncryptScriptRunsToCompletion := by
  intro s k rest c addr len hinv hp hc halign hcreated hb haddr hlen hin hfree
  have hk := hinv.lt_nCtx hc
  have hspan : commandSpan (encode .encrypt) addr len = some ⟨addr.toNat, len.toNat⟩ :=
    commandSpan_of_usesBuffer rfl (.inl rfl) hlen
  have hstart := run_startStream (w := encode .encrypt) (addr := addr) (len := len)
    (es := .perform k :: .regRead (windowAddr s.params (.context k) 0x04) 4 :: rest) hp hc hk halign hb
    fun x hx j d y hj hd hy => Option.some.inj (hspan.symm.trans hx) ▸ hfree j d y hj hd hy
  let c' := startCommand { c with bufAddr := addr, len := len } (encode .encrypt)
  have hcount : bufferCount c' = len.toNat := toNat_toInt_of_pos hlen
  obtain ⟨t, d, hrun, hagenda, hctxs, hreply, hd, hmem⟩ :=
    run_waitEncrypt (s := { s with ctxs := s.ctxs.set k c', reply := .none }) (c := c') (es := rest) hp
      (getElem?_set_same hc c') hk halign rfl (hinv.context hc).baseWrapped hcreated haddr hlen (hcount ▸ hin)
  rw [List.set_set] at hctxs
  rw [hcount] at hd
  obtain ⟨hinside, houtside⟩ := hmem
  rw [hcount] at hinside houtside
  refine ⟨t, d, (run_add 2 hstart).trans hrun, hagenda, hctxs, hreply, ?_, hinside, houtside⟩
  rw [hd, hb]
  rfl

end Sys2Proof.Machine
end

section
/-! PROOFS. The fields of a command word, what the decoder answers for each word and that the encoder is its inverse (O1 to O4),
and an illegal word in flight (O5). -/

namespace Sys2Proof

/-! ### The fields (30_encoding.md R100) -/

section
variable (w : Word)

theorem toNat_opcField : (opcField w).toNat = w.toNat % 0x100 := by
  simp [opcField]

theorem toNat_varField : (varField w).toNat = w.toNat / 0x100 % 0x10 := by
  simp [varField, Nat.shiftRight_eq_div_pow]

theorem varField_eq_zero_iff : varField w = 0 ↔ w.toNat / 0x100 % 0x10 = 0 := by
  rw [← toNat_varField]
  exact BitVec.toNat_inj.symm

/-- RSV reaches to the word's last bit, so it is the whole quotient. -/
theorem rsvField_eq_zero_iff : rsvField w = 0 ↔ w.toNat / 0x1000 = 0 := by
  have hlt : w.toNat / 0x1000 < 2 ^ 20 := by omega
  have hrsv : (rsvField w).toNat = w.toNat / 0x1000 := by
    simpa [rsvField, Nat.shiftRight_eq_div_pow] using hlt
  rw [← hrsv]
  exact BitVec.toNat_inj.symm

end

/-! ### The words of the commands (30_encoding.md R104) -/

theorem wellFormed_create_iff {var : Nat} : WellFormed (.create var) ↔ var < 16 := decide_eq_true_iff

theorem wellFormed_of_ne_create {i : Instr} (h : ∀ var, i ≠ .create var) : WellFormed i := by
  cases i with
  | create var => exact absurd rfl (h var)
  | _ => rfl

theorem toNat_encode_create {var : Nat} (h : var < 16) : (encode (.create var)).toNat = 0x02 + 0x100 * var := by
  simp only [encode, BitVec.toNat_add, BitVec.toNat_mul, BitVec.toNat_ofNat, BitVec.reduceToNat]
  omega

/-- Outside CREATE the opcode is the whole word, and no two commands share it. -/
theorem plainOpcode_eq_some_iff {opc : Nat} {i : Instr} :
    plainOpcode opc = some i ↔ (∀ var, i ≠ .create var) ∧ (encode i).toNat = opc := by
  constructor
  · intro h
    unfold plainOpcode at h
    split at h <;> cases h <;> exact ⟨nofun, rfl⟩
  · rintro ⟨hi, rfl⟩
    cases i with
    | create var => exact absurd rfl (hi var)
    | _ => rfl

theorem plainOpcode_eq_none_iff {opc : Nat} : plainOpcode opc = none ↔ opc = 0 ∨ opc = 2 ∨ 8 ≤ opc := by
  obtain hlt | hge := Nat.lt_or_ge opc 8
  · interval_cases opc <;> decide
  · refine iff_of_true ?_ (.inr (.inr hge))
    rw [plainOpcode] <;> omega

/-! ### The decoder (30_encoding.md R105) -/

section
variable {w : Word} {i : Instr}

/-- The checks of `decode` on the fields as numbers. 0x02 is no plain opcode, so the two alternatives exclude each other. -/
theorem decode_eq_ok_iff :
    decode w = .ok i ↔ w.toNat / 0x1000 = 0 ∧
      ((w.toNat % 0x100 = 2 ∧ .create (w.toNat / 0x100 % 0x10) = i) ∨
        (w.toNat / 0x100 % 0x10 = 0 ∧ plainOpcode (w.toNat % 0x100) = some i)) := by
  simp only [decode, ne_eq, rsvField_eq_zero_iff, varField_eq_zero_iff, toNat_opcField, toNat_varField]
  by_cases hrsv : w.toNat / 0x1000 = 0
  · by_cases hopc : w.toNat % 0x100 = 2
    · have hplain : plainOpcode 2 = none := rfl
      simp [hrsv, hopc, hplain]
    · cases hplain : plainOpcode (w.toNat % 0x100) with
      | none => simp [hrsv, hopc]
      | some j => by_cases hvar : w.toNat / 0x100 % 0x10 = 0 <;> simp [hrsv, hopc, hvar]
  · simp [hrsv]

/-- The words that decode are those R106 does not exclude. -/
theorem exists_decode_eq_ok_iff : (∃ i, decode w = .ok i) ↔ ¬ Machine.IllegalWord w := by
  simp only [decode_eq_ok_iff, exists_and_left, exists_or, exists_eq', and_true, ← Option.ne_none_iff_exists', ne_eq,
    plainOpcode_eq_none_iff, Machine.IllegalWord]
  omega

/-- A word that decodes does so by the table's numbering of bits too. -/
theorem decodeTableWord_of_decode (h : decode w = .ok i) : decodeTableWord 32 w.toNat = some i := by
  rw [decodeTableWord, Nat.mod_eq_of_lt w.isLt, if_pos w.isLt, BitVec.ofNat_toNat, BitVec.setWidth_eq, h]

end

/-- The encoder is a right inverse of the decoder: VAR carries a CREATE's code, and the other words are fixed. -/
theorem decode_encode {i : Instr} (h : WellFormed i) : decode (encode i) = .ok i := by
  rw [decode_eq_ok_iff]
  cases i with
  | create var =>
    have hvar := wellFormed_create_iff.mp h
    rw [toNat_encode_create hvar]
    exact ⟨by omega, .inl ⟨by omega, congrArg Instr.create (by omega)⟩⟩
  | _ => decide

/-- A word is its three fields, so the fields that the decoder reads fix it. -/
theorem encode_of_decode {w : Word} {i : Instr} (h : decode w = .ok i) : WellFormed i ∧ encode i = w := by
  obtain ⟨hrsv, ⟨hopc, rfl⟩ | ⟨hvar, hplain⟩⟩ := decode_eq_ok_iff.mp h
  · have hlt : w.toNat / 0x100 % 0x10 < 16 := Nat.mod_lt _ (by decide)
    refine ⟨wellFormed_create_iff.mpr hlt, BitVec.eq_of_toNat_eq ?_⟩
    rw [toNat_encode_create hlt]
    omega
  · obtain ⟨hcreate, hopc⟩ := plainOpcode_eq_some_iff.mp hplain
    exact ⟨wellFormed_of_ne_create hcreate, BitVec.eq_of_toNat_eq (by omega)⟩

/-- Settles O1. -/
theorem decodeOfEncodeIsTheCommand : Obligations.DecodeOfEncodeIsTheCommand := fun _ h =>
  ⟨decode_encode h, decodeTableWord_of_decode (decode_encode h)⟩

/-- Settles O2. -/
theorem decodedWordsAreTheirEncodings : Obligations.DecodedWordsAreTheirEncodings := fun _ _ => encode_of_decode

/-- Settles O3: a word is refused where it does not decode. -/
theorem decodeRefusesExactlyIllegalWords : Obligations.DecodeRefusesExactlyIllegalWords := by
  intro w
  rw [← not_iff_not, ← exists_decode_eq_ok_iff]
  cases decode w <;> simp

/-- Settles O4. -/
theorem tableWordsDecode : Obligations.TableWordsDecode := by
  refine ⟨decode_encode (i := .createDefault) rfl, decode_encode (i := .create 2) rfl, decode_encode (i := .create 15) rfl,
    decode_encode (i := .genKey) rfl, decode_encode (i := .genAltKey) rfl, decode_encode (i := .encrypt) rfl,
    decode_encode (i := .decrypt) rfl, decode_encode (i := .resetCounters) rfl, ?variant, ?reserved, ?opcode⟩
  case variant => decide
  case reserved => decide
  case opcode => decide

/-! ### An illegal word in flight -/

namespace Machine

/-- The step of a context with an illegal word in flight raises IllegalCommand there (60_exceptions.md R263). -/
theorem perform_illegal {s : State} {k : Nat} {c : Context} {w : Word} (hc : s.ctxs[k]? = some c)
    (hw : c.pending = some w) (h : IllegalWord w) :
    perform s k = .next (raiseError { s with active := k } c .illegalCommand) := by
  obtain ⟨e, he⟩ := (decodeRefusesExactlyIllegalWords w).mpr h
  simp [perform, hc, hw, he]

/-- Settles O5. -/
theorem illegalWordEndsWithIllegalCommand : Obligations.IllegalWordEndsWithIllegalCommand := by
  intro s k rest c w hp hagenda hc hw hillegal
  refine ⟨?_, rfl⟩
  calc step s
      = perform { s with agenda := rest } k := step_event hp hagenda
    _ = .next (raiseError { s with agenda := rest, active := k } c .illegalCommand) := perform_illegal hc hw hillegal
    _ = _ := congrArg Host.Outcome.next (raiseError_eq (by decide))

end Machine

end Sys2Proof
end

section
/-! PROOFS. Key generation: the bytes of the base and of the alternate key (O12, O13), and what GEN_KEY and GEN_ALT_KEY write
(O14 to O16). -/

namespace Sys2Proof.Machine

/-! ### The bytes of the key halves -/

/-- Byte `i` of a half is the first one updated `i` times (R150). -/
theorem recurrence_getElem? (update : Byte → Byte) {n i : Nat} (b : Byte) (hi : i < n) :
    (recurrence update n b)[i]? = some (update^[i] b) := by
  induction n generalizing i b with
  | zero => exact absurd hi (Nat.not_lt_zero i)
  | succ n ih =>
    cases i with
    | zero => rfl
    | succ i => exact ih (update b) (Nat.lt_of_succ_lt_succ hi)

/-- Each byte of a half is the update of the byte before it (R150). -/
theorem recurrence_getElem?_succ (update : Byte → Byte) {n i : Nat} {first b : Byte} (hi : i + 1 < n)
    (hb : (recurrence update n first)[i]? = some b) : (recurrence update n first)[i + 1]? = some (update b) := by
  rw [recurrence_getElem? update first (Nat.lt_of_succ_lt hi)] at hb
  rw [recurrence_getElem? update first hi, Function.iterate_succ_apply', Option.some.inj hb]

/-- Settles O12: both halves are one recurrence, each with its own update. -/
theorem keygenFollowsTheRecurrence : Obligations.KeygenFollowsTheRecurrence := fun p g =>
  ⟨recurrence_getElem? (updateP p) _ (by decide), recurrence_getElem? (updateG g) _ (by decide),
    fun _ _ hi hb => recurrence_getElem?_succ (updateP p) (Nat.succ_lt_succ hi) hb,
    fun _ _ hi hb => recurrence_getElem?_succ (updateG g) (Nat.succ_lt_succ hi) hb⟩

/-- Every byte of a half is exclusive-ored with the byte of the word at its index modulo 4 (R152). -/
theorem xorHalf_getElem? (h : Bytes 256) (v : Word) (i : Nat) :
    (xorHalf h v).toList[i]? = h.toList[i]?.map (· ^^^ byteAt v (i % 4)) :=
  List.getElem?_mapIdx

/-- Settles O13: the halves of the alternate key are those of the base key under the words x and y. -/
theorem altDeriveBytes : Obligations.AltDeriveBytes := fun _ base a b i _ =>
  ⟨xorHalf_getElem? base.k1 (altX a b) i, xorHalf_getElem? base.k2 (altY a b) i⟩

/-! ### The commands in a created context -/

/-- What GEN_ALT_KEY makes of a context with an engine (R156). -/
def afterGenAltKey (c : Context) : Context :=
  { c with alt := altKey c.kind c.base c.lArg0 c.lArg1, useAlt := true, encCtr := 0, code := .ok, pending := none }

/-- The alternate key is made from the base key and the latches, and GEN_ALT_KEY keeps these (R155). -/
theorem afterGenAltKey_idem (c : Context) : afterGenAltKey (afterGenAltKey c) = afterGenAltKey c := rfl

section
variable {s : State} {c : Context} (hc : s.ctxs[s.active]? = some c) (hcreated : c.created = true)
include hc hcreated

/-- A command that needs an engine and writes no BUFMEM, where there is an engine: it ends OK in the context that it makes. -/
theorem inActive_ifCreated_ok (d : Context → Context) :
    inActive s (fun e => ifCreated s e (endCommand s (d e) s.bufmem .ok)) =
      .next { s with ctxs := s.ctxs.set s.active { d c with code := .ok, pending := none } } :=
  calc inActive s (fun e => ifCreated s e (endCommand s (d e) s.bufmem .ok))
    _ = .next (ifCreated s c (endCommand s (d c) s.bufmem .ok)) := inActive_eq _ hc
    _ = .next (endCommand s (d c) s.bufmem .ok) := congrArg _ (ifCreated_created hcreated)
    _ = _ := congrArg _ (endCommand_ok (d c) s.bufmem)

/-- GEN_ALT_KEY where there is an engine. -/
theorem exec_genAltKey_created :
    exec .genAltKey s = .next { s with ctxs := s.ctxs.set s.active (afterGenAltKey c) } :=
  inActive_ifCreated_ok hc hcreated fun c =>
    { c with alt := altKey c.kind c.base (seedA c) (seedB c), useAlt := true, encCtr := 0 }

end

/-- Settles O14: the key of KEYGEN is its two halves and their first W − 1 bytes. -/
theorem genKeyWritesTheBaseKey : Obligations.GenKeyWritesTheBaseKey := fun _ _ hc hcreated =>
  inActive_ifCreated_ok hc hcreated fun c => { c with base := baseKey c.kind (seedP c) (seedG c) }

/-- Settles O15. -/
theorem genAltKeyWritesTheAlternateKey : Obligations.GenAltKeyWritesTheAlternateKey := fun _ _ hc hcreated =>
  exec_genAltKey_created hc hcreated

/-- Settles O16: the second command makes of the context that the first one left the same context again. -/
theorem genAltKeyAgainChangesNothing : Obligations.GenAltKeyAgainChangesNothing := by
  intro s t c hc hcreated hexec
  obtain rfl := Host.Outcome.next.inj ((exec_genAltKey_created hc hcreated).symm.trans hexec)
  have hagain := exec_genAltKey_created (s := { s with ctxs := s.ctxs.set s.active (afterGenAltKey c) })
    (getElem?_set_same hc (afterGenAltKey c)) hcreated
  rwa [List.set_set, afterGenAltKey_idem] at hagain

end Sys2Proof.Machine
end

section
/-! PROOFS. The byte pipeline and its inverse (O17 to O19), the transform of a buffer in its two forms (O20 to O22), and what the
stream commands do in a created context: a failing check (O25), the counters cleared (O26), one command after another (O27). -/

namespace Sys2Proof.Machine

/-! ### The nibble exchange -/

theorem getLsbD_swap4 (b : Byte) {i : Nat} (hi : i < 8) : (swap4 b).getLsbD i = b.getLsbD ((i + 4) % 8) := by
  interval_cases i <;> simp [swap4]

@[simp] theorem swap4_swap4 (b : Byte) : swap4 (swap4 b) = b := by
  refine BitVec.eq_of_getLsbD_eq fun i hi => ?_
  rw [getLsbD_swap4 _ hi, getLsbD_swap4 _ (Nat.mod_lt _ (by decide)), show ((i + 4) % 8 + 4) % 8 = i by omega]

theorem swap4_xor (a b : Byte) : swap4 (a ^^^ b) = swap4 a ^^^ swap4 b := by
  refine BitVec.eq_of_getLsbD_eq fun i hi => ?_
  simp only [BitVec.getLsbD_xor, getLsbD_swap4 _ hi]

/-- The nibble rotate in a 16-bit lane stays inside each byte: the masks drop what a shift brings in from the other (R192). -/
theorem getLsbD_vrotLane16 (u : BitVec 16) {i : Nat} (hi : i < 16) :
    (vrotLane16 u).getLsbD i = u.getLsbD (8 * (i / 8) + (i + 4) % 8) := by
  interval_cases i <;> simp [vrotLane16]

theorem vrotLane16_append (hi lo : Byte) : vrotLane16 (hi ++ lo) = swap4 hi ++ swap4 lo := by
  refine BitVec.eq_of_getLsbD_eq fun i h => ?_
  rw [getLsbD_vrotLane16 _ h, BitVec.getLsbD_append, BitVec.getLsbD_append]
  by_cases hlow : i < 8
  · rw [if_pos (by omega), if_pos hlow, getLsbD_swap4 lo hlow]
    congr 1
    omega
  · rw [if_neg (by omega), if_neg hlow, getLsbD_swap4 hi (by omega)]
    congr 1
    omega

/-- Settles O21. -/
theorem nibbleRotateLanesAgree : Obligations.NibbleRotateLanesAgree := fun hi lo =>
  ⟨vrot_eq_swap4 lo, vrotLane16_append hi lo⟩

/-! ### The byte pipeline -/

/-- The key byte of a counter value: the two bytes that stages 3 and 4 put in (R180). -/
def mixByte (c : Counter) (k : Key) : Byte := keyByte k.k1 (lo8 c) ^^^ keyByte k.k2 (hi8 c)

section
variable (b : Byte) (c : Counter) (k : Key)

theorem cipherByte_eq : cipherByte b c k = swap4 (b ^^^ 0xAB) ^^^ mixByte c k :=
  BitVec.xor_assoc _ _ _

theorem invByte_eq : invByte b c k = swap4 (b ^^^ mixByte c k) ^^^ 0xAB := by
  rw [mixByte, ← BitVec.xor_assoc]
  rfl

/-- The closed form: the constant of stage 1 is exchanged with the byte's nibbles (R180). -/
theorem cipherByte_closedForm : cipherByte b c k = swap4 b ^^^ 0xBA ^^^ mixByte c k := by
  rw [cipherByte_eq, swap4_xor]
  rfl

theorem invByte_cipherByte : invByte (cipherByte b c k) c k = b := by
  simp [invByte_eq, cipherByte_eq]

theorem cipherByte_invByte : cipherByte (invByte b c k) c k = b := by
  simp [invByte_eq, cipherByte_eq]

/-- The pipeline applied twice: the nibbles are back in place, the constant and the key byte are not (R195). -/
theorem cipherByte_cipherByte :
    cipherByte (cipherByte b c k) c k = b ^^^ 0x11 ^^^ mixByte c k ^^^ swap4 (mixByte c k) := by
  rw [cipherByte_closedForm, cipherByte_closedForm, swap4_xor, swap4_xor, swap4_swap4,
    show (0x11 : Byte) = swap4 0xBA ^^^ 0xBA from rfl]
  ac_rfl

end

/-- Settles O17. -/
theorem cipherByteClosedForm : Obligations.CipherByteClosedForm := by
  intro b c k
  rw [cipherByte_closedForm, mixByte, ← BitVec.xor_assoc]

/-- Settles O18. -/
theorem invByteInvertsCipherByte : Obligations.InvByteInvertsCipherByte := fun b c k =>
  ⟨invByte_cipherByte b c k, cipherByte_invByte b c k⟩

/-- A byte that an exclusive-or leaves as it is. -/
theorem xor_eq_left_iff {x y : Byte} : x ^^^ y = x ↔ y = 0 := by
  have h := BitVec.xor_right_inj (x := y) (y := 0#8) x
  rwa [BitVec.xor_zero] at h

/-- The exclusive-or of the two nibbles of a byte. -/
def nibbleXor (x : Byte) : Byte := (x >>> 4) ^^^ (x &&& 0x0F)

theorem getLsbD_nibbleXor (x : Byte) {i : Nat} (hi : i < 8) :
    (nibbleXor x).getLsbD i = (decide (i < 4) && (x.getLsbD (i + 4) ^^ x.getLsbD i)) := by
  interval_cases i <;> simp [nibbleXor]

/-- A byte and its exchange differ by that number in both nibbles. -/
theorem xor_swap4_eq (x : Byte) : x ^^^ swap4 x = nibbleXor x ^^^ swap4 (nibbleXor x) := by
  refine BitVec.eq_of_getLsbD_eq fun i hi => ?_
  rw [BitVec.getLsbD_xor, BitVec.getLsbD_xor, getLsbD_swap4 _ hi, getLsbD_swap4 _ hi, getLsbD_nibbleXor x hi,
    getLsbD_nibbleXor x (Nat.mod_lt _ (by decide))]
  interval_cases i <;> simp [Bool.xor_comm]

theorem nibbleXor_eq_and (x : Byte) : nibbleXor x = (x ^^^ swap4 x) &&& 0x0F := by
  refine BitVec.eq_of_getLsbD_eq fun i hi => ?_
  rw [getLsbD_nibbleXor x hi, BitVec.getLsbD_and, BitVec.getLsbD_xor, getLsbD_swap4 _ hi]
  interval_cases i <;> simp [Bool.xor_comm]

theorem xor_swap4_eq_iff (x : Byte) : x ^^^ swap4 x = 0x11 ↔ nibbleXor x = 0x01 := by
  constructor
  · intro h
    rw [nibbleXor_eq_and, h]
    rfl
  · intro h
    rw [xor_swap4_eq, h]
    rfl

/-- Settles O19: the residue is zero where the key byte and its exchange differ by 0x11. -/
theorem pipelineTwiceLeavesResidue : Obligations.PipelineTwiceLeavesResidue := by
  intro b c k
  refine ⟨cipherByte_cipherByte b c k, ?_⟩
  calc cipherByte (cipherByte b c k) c k = b
      ↔ b ^^^ (0x11 ^^^ (mixByte c k ^^^ swap4 (mixByte c k))) = b := by
        rw [cipherByte_cipherByte, BitVec.xor_assoc, BitVec.xor_assoc]
    _ ↔ mixByte c k ^^^ swap4 (mixByte c k) = 0x11 := by
        rw [xor_eq_left_iff, eq_comm (b := (0x11 : Byte))]
        exact BitVec.xor_eq_zero_iff
    _ ↔ nibbleXor (mixByte c k) = 0x01 := xor_swap4_eq_iff _

/-! ### The transform of a buffer -/

/-- Settles O20. -/
theorem transformIsBytewise : Obligations.TransformIsBytewise := by
  intro k c buf
  refine ⟨transform_length k c buf, transform_counter k c buf, fun i b hb => ?_⟩
  rw [transform_getElem?, hb, Option.map_some]

/-- Settles O22: VTRANSFORM is the block loop on as many whole blocks as the buffer has. -/
theorem vectorFormEqualsReference : Obligations.VectorFormEqualsReference := fun kind _ c buf hk =>
  ⟨fun hkind => vtransformBlocks_eq_transform hkind hk (buf.length / vectorWidth kind) c buf (Nat.div_mul_le_self _ _),
    engineTransform_eq_transform hk c buf⟩

/-! ### ENCRYPT and DECRYPT in one form -/

/-- The key of a stream command (R183). -/
def streamKey (i : Instr) (c : Context) : Key :=
  match i with
  | .decrypt => decryptKey c
  | _ => c.base

/-- The counter that a stream command uses (R184, R185). -/
def streamCtr (i : Instr) (c : Context) : Counter :=
  match i with
  | .decrypt => c.decCtr
  | _ => c.encCtr

/-- The context with that counter replaced. -/
def withStreamCtr (i : Instr) (c : Context) (n : Counter) : Context :=
  match i with
  | .decrypt => { c with decCtr := n }
  | _ => { c with encCtr := n }

theorem streamKey_wrapped {c : Context} (i : Instr) (h : c.Inv) : (streamKey i c).wrapped c.kind := by
  cases i with
  | decrypt => exact decryptKey_wrapped h
  | _ => exact h.baseWrapped

section
variable {i : Instr} {s : State} {c : Context}

theorem exec_stream (hi : UsesBuffer i) (hc : s.ctxs[s.active]? = some c) :
    exec i s = .next (streamCommand s c (streamKey i c) (streamCtr i c) (withStreamCtr i c)) := by
  rcases hi with rfl | rfl
  · exact inActive_eq _ hc
  · exact inActive_eq _ hc

/-- A stream command whose buffer fails CHECK_BUFFER (R186). -/
theorem exec_stream_rejected {e : ResultCode} (hi : UsesBuffer i) (hc : s.ctxs[s.active]? = some c)
    (hcreated : c.created = true) (hcheck : checkBuffer s.params c = some e) (he : e ≠ .ok) :
    exec i s = .next
      { s with ctxs := s.ctxs.set s.active { c with code := e, errSticky := true, pending := none } } :=
  calc exec i s
    _ = .next (streamCommand s c (streamKey i c) (streamCtr i c) (withStreamCtr i c)) := exec_stream hi hc
    _ = .next (raiseError s c e) := congrArg _ (streamCommand_rejected hcreated hcheck)
    _ = _ := congrArg _ (raiseError_eq he)

theorem checkBuffer_invalidArgument {p : Params} (h : c.lAddr = 0 ∨ bufferLen c ≤ 0) :
    checkBuffer p c = some .invalidArgument := if_pos h

theorem checkBuffer_accessFault {p : Params} (haddr : c.lAddr ≠ 0) (hlen : 0 < bufferLen c)
    (hend : (bufMemSize p : Int) < bufferAddr c + bufferLen c) : checkBuffer p c = some .accessFault := by
  rcases checkBuffer_cases p c with ⟨-, h | h⟩ | ⟨h, -⟩ | ⟨-, -, -, h⟩
  · exact absurd h haddr
  · exact absurd hlen (not_lt.mpr h)
  · exact h
  · exact absurd hend (not_lt.mpr h)

end

/-- Settles O25. -/
theorem bufferChecksStopTheCommand : Obligations.BufferChecksStopTheCommand := fun _ _ _ hi hc hcreated =>
  ⟨fun h => exec_stream_rejected hi hc hcreated (checkBuffer_invalidArgument h) nofun,
    fun haddr hlen hend => exec_stream_rejected hi hc hcreated (checkBuffer_accessFault haddr hlen hend) nofun⟩

/-- Settles O26. -/
theorem resetCountersClearsBoth : Obligations.ResetCountersClearsBoth := fun _ _ hc hcreated =>
  inActive_ifCreated_ok hc hcreated fun c => { c with encCtr := 0, decCtr := 0 }

/-! ### One stream command after another -/

section
variable (m : Memory) (a n : Nat)

theorem Memory.readBytes_add (l : Nat) :
    Memory.readBytes m a (n + l) = Memory.readBytes m a n ++ Memory.readBytes m (a + n) l := by
  induction n generalizing a with
  | zero => simp [Memory.readBytes]
  | succ n ih => simp only [Nat.succ_add, Memory.readBytes, ih, List.cons_append, Nat.add_succ]

theorem Memory.writeBytes_append (bs cs : List Byte) :
    Memory.writeBytes m a (bs ++ cs) = Memory.writeBytes (Memory.writeBytes m a bs) (a + bs.length) cs := by
  induction bs generalizing m a with
  | nil => rfl
  | cons b bs ih =>
    simp only [List.cons_append, Memory.writeBytes_cons, ih, List.length_cons, Nat.add_assoc, Nat.add_comm 1]

/-- BUFMEM after the `n` bytes at `a` have been transformed in place (R184). -/
def transformRange (k : Key) (ctr : Counter) (a n : Nat) (m : Memory) : Memory :=
  Memory.writeBytes m a (transform k ctr (Memory.readBytes m a n)).1

/-- Transforming a range is transforming its first part, then the rest with the counter advanced: the first leaves the bytes
of the rest alone (R196). -/
theorem transformRange_add (k : Key) (ctr : Counter) (l : Nat) :
    transformRange k ctr a (n + l) m =
      transformRange k (ctr + BitVec.ofNat 16 n) (a + n) l (transformRange k ctr a n m) := by
  have hrest : Memory.readBytes (transformRange k ctr a n m) (a + n) l = Memory.readBytes m (a + n) l :=
    Memory.readBytes_congr fun x hx _ => Memory.read_writeBytes_outside _ _ _ (.inr (by simpa using hx))
  conv_rhs => rw [transformRange, hrest]
  simp only [transformRange, Memory.readBytes_add, transform_append, Memory.writeBytes_append, transform_length,
    Memory.readBytes_length]

end

/-- What a stream command on `n` bytes makes of its context. -/
def afterStream (i : Instr) (c : Context) (n : Nat) : Context :=
  { withStreamCtr i c (streamCtr i c + BitVec.ofNat 16 n) with code := .ok, pending := none }

/-- The state after a stream command of the active context `c` on `[a, a + n)`. -/
def streamed (i : Instr) (s : State) (c : Context) (a n : Nat) : State :=
  { s with
    ctxs := s.ctxs.set s.active (afterStream i c n),
    bufmem := transformRange (streamKey i c) (streamCtr i c) a n s.bufmem }

/-- The context with `[a, a + n)` latched as the buffer of its next stream command. -/
def withRange (c : Context) (a n : Nat) : Context :=
  { c with lAddr := BitVec.ofNat 32 a, lLen := BitVec.ofNat 32 n }

section
variable {i : Instr} {s : State} {c : Context} {a n : Nat}

/-- A stream command of a legal buffer under a key with its wrap windows, as an equation. -/
theorem exec_stream_legal (hi : UsesBuffer i) (hc : s.ctxs[s.active]? = some c) (hcreated : c.created = true)
    (hk : (streamKey i c).wrapped c.kind) (haddr : c.lAddr ≠ 0) (hlen : 0 < c.lLen.toInt)
    (hin : bufferAddr c + bufferCount c ≤ bufMemSize s.params) :
    exec i s = .next (streamed i s c (bufferAddr c) (bufferCount c)) := by
  rw [exec_stream hi hc, streamCommand_passed hcreated (checkBuffer_legal haddr hlen hin),
    engineTransform_eq_transform hk, transform_counter, Memory.readBytes_length, endCommand_ok]
  rfl

/-! What does not depend on the latched range, or on the counters. -/

@[simp] theorem withRange_kind : (withRange c a n).kind = c.kind := rfl

@[simp] theorem streamKey_withRange : streamKey i (withRange c a n) = streamKey i c := by
  cases i <;> rfl

@[simp] theorem streamCtr_withRange : streamCtr i (withRange c a n) = streamCtr i c := by
  cases i <;> rfl

@[simp] theorem streamKey_afterStream : streamKey i (afterStream i c n) = streamKey i c := by
  cases i <;> rfl

@[simp] theorem streamCtr_afterStream : streamCtr i (afterStream i c n) = streamCtr i c + BitVec.ofNat 16 n := by
  cases i <;> rfl

@[simp] theorem afterStream_created : (afterStream i c n).created = c.created := by
  cases i <;> rfl

@[simp] theorem afterStream_kind : (afterStream i c n).kind = c.kind := by
  cases i <;> rfl

theorem bufferAddr_withRange (ha : a < 2 ^ 32) : bufferAddr (withRange c a n) = a :=
  (BitVec.toNat_ofNat _ _).trans (Nat.mod_eq_of_lt ha)

theorem bufferLen_withRange (hn : n < 2 ^ 31) : bufferLen (withRange c a n) = n := by
  have htoNat : (withRange c a n).lLen.toNat = n := (BitVec.toNat_ofNat _ _).trans (Nat.mod_eq_of_lt (by omega))
  exact (BitVec.toInt_eq_toNat_of_lt (by omega)).trans (congrArg _ htoNat)

theorem bufferCount_withRange (hn : n < 2 ^ 31) : bufferCount (withRange c a n) = n :=
  congrArg Int.toNat (bufferLen_withRange hn)

/-- BUFMEM_SIZE is at most 2^32 (00_scope.md R8). -/
theorem bufMemSize_le (p : Params) : bufMemSize p ≤ 2 ^ 32 := p.bufMemLast.isLt

theorem streamed_setCtx (d : Context) : streamed i (setCtx s s.active d) c a n = streamed i s c a n := by
  simp [streamed, setCtx]

/-- A stream command of the active context on a legal range. -/
theorem exec_stream_withRange (hi : UsesBuffer i) (hc : s.ctxs[s.active]? = some c) (hcreated : c.created = true)
    (hk : (streamKey i c).wrapped c.kind) (ha : 0 < a) (hn : 0 < n) (hn' : n < 2 ^ 31)
    (hin : a + n ≤ bufMemSize s.params) :
    exec i (setCtx s s.active (withRange c a n)) = .next (streamed i s (withRange c a n) a n) := by
  have hsize := bufMemSize_le s.params
  have haddr : bufferAddr (withRange c a n) = a := bufferAddr_withRange (by omega)
  have hlen : bufferLen (withRange c a n) = n := bufferLen_withRange hn'
  have hcount : bufferCount (withRange c a n) = n := bufferCount_withRange hn'
  have hnull : (withRange c a n).lAddr ≠ 0 := fun h => by
    have hzero : bufferAddr (withRange c a n) = 0 := congrArg BitVec.toNat h
    omega
  have hpos : 0 < bufferLen (withRange c a n) := by omega
  have hexec := exec_stream_legal (s := setCtx s s.active (withRange c a n)) hi (getElem?_set_same hc _) hcreated
    (streamKey_withRange.symm ▸ hk) hnull hpos (haddr.symm ▸ hcount.symm ▸ hin)
  rwa [haddr, hcount, streamed_setCtx] at hexec

/-- A second command advances the counter that the first one advanced, and the other counter stays (R196). -/
theorem afterStream_again (hi : UsesBuffer i) (l : Nat) :
    (afterStream i (withRange (afterStream i (withRange c a n) n) (a + n) l) l).encCtr =
        (afterStream i (withRange c a (n + l)) (n + l)).encCtr ∧
      (afterStream i (withRange (afterStream i (withRange c a n) n) (a + n) l) l).decCtr =
        (afterStream i (withRange c a (n + l)) (n + l)).decCtr := by
  have hadd : ∀ ctr : Counter, ctr + BitVec.ofNat 16 n + BitVec.ofNat 16 l = ctr + BitVec.ofNat 16 (n + l) := fun ctr => by
    rw [BitVec.add_assoc, BitVec.ofNat_add]
  rcases hi with rfl | rfl
  · exact ⟨hadd c.encCtr, rfl⟩
  · exact ⟨rfl, hadd c.decCtr⟩

end

/-- Settles O27: the second command has the key of the first, and the counter that the first one left. -/
theorem streamContinuity : Obligations.StreamContinuity := by
  intro i s c a n1 n2 hi hinv hc hcreated ha hn1 hn2 hsum hin
  have hk := streamKey_wrapped i (hinv.context hc)
  let d := afterStream i (withRange c a n1) n1
  let u := streamed i s (withRange c a n1) a n1
  have hd : u.ctxs[u.active]? = some d := getElem?_set_same hc d
  have hdcreated : d.created = true := afterStream_created.trans hcreated
  have hdk : (streamKey i d).wrapped d.kind := by simpa [d] using hk
  have hfirst := exec_stream_withRange (n := n1) hi hc hcreated hk ha hn1 (by omega) (by omega)
  have hsecond := exec_stream_withRange hi hd hdcreated hdk (by omega) hn2 (by omega) hin
  have hwhole := exec_stream_withRange (n := n1 + n2) hi hc hcreated hk ha (by omega) hsum (by omega)
  obtain ⟨henc, hdec⟩ := afterStream_again (c := c) (a := a) (n := n1) hi n2
  refine ⟨u, _, _, d, _, _, hfirst, hd, hsecond, hwhole, getElem?_set_same hd _, getElem?_set_same hc _, ?_, henc, hdec⟩
  simp [streamed, u, d, transformRange_add]

end Sys2Proof.Machine
end

section
/-! PROOFS. The selection of an engine variant: BEST (O28), the engine that CREATE_DEFAULT and CREATE construct (O29, O30), and
what a failing CREATE leaves (O31). -/

namespace Sys2Proof.Machine

/-! ### SUPPORTED and BEST (R230, R231) -/

theorem supported_best (snap : Snapshot) : supported snap (best snap) = true := by
  unfold best
  split
  case isTrue havx2 => exact havx2
  case isFalse =>
    split
    case isTrue hsse2 => exact hsse2
    case isFalse => rfl

/-- A variant is passed over only where a wider one is taken or the CPU lacks it. -/
theorem vectorWidth_le_best {snap : Snapshot} {kind : Kind} (h : supported snap kind = true) :
    vectorWidth kind ≤ vectorWidth (best snap) := by
  cases kind with
  | standard =>
    change 1 ≤ vectorWidth (best snap)
    have := vectorWidth_cases (best snap)
    omega
  | vector128 =>
    have hsse2 : snap.sse2 = true := h
    cases havx2 : snap.avx2 <;> simp [best, vectorWidth, hsse2, havx2]
  | vector256 =>
    have havx2 : snap.avx2 = true := h
    simp [best, havx2]

/-- Settles O28. -/
theorem bestIsTheWidestSupported : Obligations.BestIsTheWidestSupported := fun snap =>
  ⟨rfl, rfl, rfl, supported_best snap, fun _ => vectorWidth_le_best⟩

/-! ### The constructed engine (R232) -/

/-- The wrap window of a zero half: WRAPFILL copies zeros. -/
theorem wrapOf_zero (kind : Kind) : wrapOf kind (Bytes.zero 256) = List.replicate (vectorWidth kind - 1) 0 := by
  have hfits : vectorWidth kind - 1 ≤ 256 := by
    have := vectorWidth_cases kind
    omega
  rw [wrapOf, Bytes.zero, List.take_replicate, Nat.min_eq_left hfits]

/-- The context that a successful creation leaves, its key halves and wrap windows written out. -/
def freshlyCreated (p : Params) (c : Context) (kind : Kind) : Context :=
  { c with
    created := true, kind := kind, useAlt := false, encCtr := 0, decCtr := 0,
    base :=
      { k1 := keygen1 p.defaultP, k2 := keygen2 p.defaultG,
        wrap1 := (keygen1 p.defaultP).toList.take (vectorWidth kind - 1),
        wrap2 := (keygen2 p.defaultG).toList.take (vectorWidth kind - 1) },
    alt :=
      { k1 := Bytes.zero 256, k2 := Bytes.zero 256,
        wrap1 := List.replicate (vectorWidth kind - 1) 0, wrap2 := List.replicate (vectorWidth kind - 1) 0 },
    code := .ok, pending := none }

section
variable {s : State} {c : Context} {i : Instr} {kind : Kind} {var : Nat} {e : ResultCode}

theorem withResult_construct (p : Params) : withResult (construct p c kind) .ok = freshlyCreated p c kind := by
  simp only [withResult_ok, construct, baseKey, keyOf, wrapOf_zero]
  rfl

theorem endCommand_construct :
    endCommand s (construct s.params c kind) s.bufmem .ok =
      { s with ctxs := s.ctxs.set s.active (freshlyCreated s.params c kind) } :=
  congrArg (fun d => { s with ctxs := s.ctxs.set s.active d }) (withResult_construct s.params)

/-! ### The variant code of CREATE (30_encoding.md R103) -/

theorem kindOfCode_kindCode (kind : Kind) : kindOfCode (kindCode kind) = some kind := by
  cases kind <;> rfl

theorem kindOfCode_eq_none (h : 3 ≤ var) : kindOfCode var = none := by
  rw [kindOfCode] <;> omega

/-! ### CREATE and the commands after it -/

theorem exec_create_supported (hc : s.ctxs[s.active]? = some c) (hvar : kindOfCode var = some kind)
    (hs : supported s.snap kind = true) :
    exec (.create var) s = .next (endCommand s (construct s.params c kind) s.bufmem .ok) := by
  refine (inActive_eq _ hc).trans ?_
  simp [hvar, hs]

theorem exec_create_unsupported (hc : s.ctxs[s.active]? = some c) (hvar : kindOfCode var = some kind)
    (hs : supported s.snap kind = false) :
    exec (.create var) s = .next (raiseError s (unconstruct c) .unsupportedVariant) := by
  refine (inActive_eq _ hc).trans ?_
  simp [hvar, hs]

theorem exec_create_unknown (hc : s.ctxs[s.active]? = some c) (hvar : kindOfCode var = none) :
    exec (.create var) s = .next (raiseError s (unconstruct c) .unknownVariant) := by
  refine (inActive_eq _ hc).trans ?_
  simp [hvar]

/-- The three ways in which CREATE fails, and that it ends alike in each (R234, R235). -/
theorem exec_create_fails (hc : s.ctxs[s.active]? = some c)
    (h : (3 ≤ var ∧ e = .unknownVariant) ∨
      (e = .unsupportedVariant ∧ ((var = 1 ∧ s.snap.sse2 = false) ∨ (var = 2 ∧ s.snap.avx2 = false)))) :
    e ≠ .ok ∧ exec (.create var) s = .next (raiseError s (unconstruct c) e) := by
  obtain ⟨hvar, rfl⟩ | ⟨rfl, ⟨rfl, hsse2⟩ | ⟨rfl, havx2⟩⟩ := h
  · exact ⟨nofun, exec_create_unknown hc (kindOfCode_eq_none hvar)⟩
  · exact ⟨nofun, exec_create_unsupported hc (kindOfCode_kindCode .vector128) hsse2⟩
  · exact ⟨nofun, exec_create_unsupported hc (kindOfCode_kindCode .vector256) havx2⟩

/-- The commands with the opcodes 0x03 to 0x07 end with NotCreated in a context without an engine (60_exceptions.md R261). -/
theorem exec_notCreated (hc : s.ctxs[s.active]? = some c) (hcreated : c.created = false)
    (hopc : 3 ≤ (opcField (encode i)).toNat) (hcreate : ∀ v, i ≠ .create v) :
    exec i s = .next (raiseError s c .notCreated) := by
  have hnone (t : State) : ifCreated s c t = raiseError s c .notCreated := ifCreated_none hcreated
  cases i with
  | createDefault => exact absurd hopc (by decide)
  | create var => exact absurd rfl (hcreate var)
  | _ => exact (inActive_eq _ hc).trans (congrArg _ (hnone _))

end

/-- Settles O29. -/
theorem createDefaultConstructsTheBest : Obligations.CreateDefaultConstructsTheBest := fun _ _ hc =>
  (inActive_eq _ hc).trans (congrArg _ endCommand_construct)

/-- Settles O30: the code of a kind names that kind. -/
theorem createConstructsTheVariant : Obligations.CreateConstructsTheVariant := fun _ _ kind hc hs =>
  (exec_create_supported hc (kindOfCode_kindCode kind) hs).trans (congrArg _ endCommand_construct)

/-- Settles O31: the failed CREATE has cleared the context's `created`, which every engine command reads first. -/
theorem failedCreateLeavesNoEngine : Obligations.FailedCreateLeavesNoEngine := by
  intro s c var e hc h
  obtain ⟨he, hexec⟩ := exec_create_fails hc h
  refine ⟨_, _, hexec, raiseError_eq he, rfl, fun i hopc hcreate => ?_⟩
  have hd := getElem?_set_same hc (withResult (unconstruct c) e)
  exact ⟨_, _, exec_notCreated (s := raiseError s (unconstruct c) e) hd rfl hopc hcreate, getElem?_set_same hd _, rfl⟩

end Sys2Proof.Machine
end

section
/-! PROOFS. How a command ends: where there is no context (O10), without an engine (O32), in every context that exists (O9),
and with which code (O33). -/

namespace Sys2Proof.Machine

/-! ### The context a command runs in -/

/-- Every command looks its context up first (60_exceptions.md R277). -/
theorem exec_eq_inActive (i : Instr) (s : State) : ∃ f, exec i s = inActive s f := by
  cases i <;> exact ⟨_, rfl⟩

theorem inActive_missing {s : State} (f : Context → State) (h : s.ctxs.length ≤ s.active) :
    inActive s f = .refused .noSuchContext := by
  simp [inActive, h]

/-- Settles O10. -/
theorem missingContextIsRefused : Obligations.MissingContextIsRefused := by
  intro i s h
  obtain ⟨f, hf⟩ := exec_eq_inActive i s
  exact hf.trans (inActive_missing f h)

/-- Settles O32. -/
theorem engineCommandsNeedAnEngine : Obligations.EngineCommandsNeedAnEngine := fun _ _ _ hc hcreated hopc hcreate =>
  ⟨(exec_notCreated hc hcreated hopc hcreate).trans (congrArg _ (raiseError_eq nofun)), rfl⟩

/-! ### The code a command ends with -/

/-- The code a command ends with, by its own checks in the order it makes them. -/
def commandResult (p : Params) (snap : Snapshot) (c : Context) (i : Instr) : ResultCode :=
  match i with
  | .createDefault => .ok
  | .create var =>
    match kindOfCode var with
    | none => .unknownVariant
    | some kind => if supported snap kind then .ok else .unsupportedVariant
  | .encrypt | .decrypt => if c.created = false then .notCreated else (checkBuffer p c).getD .ok
  | .genKey | .genAltKey | .resetCounters => if c.created = false then .notCreated else .ok

/-- `t` is `s` after a command of `c` has ended with the code `r`, with ERR_STICKY not touched before that. -/
def EndsWith (s : State) (c : Context) (r : ResultCode) (t : State) : Prop :=
  ∃ d m, d.errSticky = c.errSticky ∧ t = endCommand s d m r

section
variable {s t : State} {c d : Context} {r : ResultCode}

theorem EndsWith.of_endCommand {m : Memory} (h : d.errSticky = c.errSticky) : EndsWith s c r (endCommand s d m r) :=
  ⟨d, m, h, rfl⟩

theorem EndsWith.ite {b : Bool} {q : ResultCode} {u : State} (ht : EndsWith s c r t) (hu : EndsWith s c q u) :
    EndsWith s c (if b then r else q) (if b then t else u) := by
  cases b with
  | false => exact hu
  | true => exact ht

theorem EndsWith.ifCreated (h : EndsWith s c r t) :
    EndsWith s c (if c.created = false then .notCreated else r) (ifCreated s c t) := by
  cases hcreated : c.created with
  | false =>
    rw [ifCreated_none hcreated]
    exact .of_endCommand rfl
  | true =>
    rw [ifCreated_created hcreated]
    exact h

theorem withStreamCtr_errSticky (i : Instr) (c : Context) (n : Counter) :
    (withStreamCtr i c n).errSticky = c.errSticky := by
  cases i <;> rfl

/-- A stream command ends with the error of CHECK_BUFFER where it has one (42_stream_transform.md R186). -/
theorem EndsWith.streamCommand (i : Instr) (k : Key) (ctr : Counter) :
    EndsWith s c (if c.created = false then .notCreated else (checkBuffer s.params c).getD .ok)
      (streamCommand s c k ctr (withStreamCtr i c)) := by
  refine .ifCreated ?_
  cases checkBuffer s.params c with
  | some e => exact .of_endCommand rfl
  | none => exact .of_endCommand (withStreamCtr_errSticky i c _)

/-- Every command of a context that exists ends, with the code of its own checks. -/
theorem exec_endsWith (hc : s.ctxs[s.active]? = some c) (i : Instr) :
    ∃ t, exec i s = .next t ∧ EndsWith s c (commandResult s.params s.snap c i) t := by
  cases i with
  | createDefault => exact ⟨_, inActive_eq _ hc, .of_endCommand rfl⟩
  | create var =>
    refine ⟨_, inActive_eq _ hc, ?_⟩
    rw [commandResult]
    cases kindOfCode var with
    | none => exact .of_endCommand rfl
    | some kind => exact .ite (.of_endCommand rfl) (.of_endCommand rfl)
  | genKey => exact ⟨_, inActive_eq _ hc, .ifCreated (.of_endCommand rfl)⟩
  | genAltKey => exact ⟨_, inActive_eq _ hc, .ifCreated (.of_endCommand rfl)⟩
  | encrypt => exact ⟨_, exec_stream (.inl rfl) hc, .streamCommand _ _ _⟩
  | decrypt => exact ⟨_, exec_stream (.inr rfl) hc, .streamCommand _ _ _⟩
  | resetCounters => exact ⟨_, inActive_eq _ hc, .ifCreated (.of_endCommand rfl)⟩

/-- What STATUS of the context then shows (60_exceptions.md R262). -/
theorem EndsWith.status (h : EndsWith s c r t) (hc : s.ctxs[s.active]? = some c) :
    ∃ d, t.ctxs[s.active]? = some d ∧ d.pending = none ∧ d.code = r ∧
      d.errSticky = (c.errSticky || decide (r ≠ .ok)) := by
  obtain ⟨d, m, hd, rfl⟩ := h
  exact ⟨withResult d r, getElem?_set_same hc _, rfl, rfl, by simp [hd, bne, beq_eq_decide]⟩

end

/-- Settles O9. -/
theorem everyCommandEnds : Obligations.EveryCommandEnds := by
  intro i s c hc
  obtain ⟨t, hexec, hends⟩ := exec_endsWith hc i
  obtain ⟨d, hd, hidle, -⟩ := hends.status hc
  exact ⟨t, d, hexec, hd, hidle⟩

/-! ### The first error of the priority order (60_exceptions.md R263) -/

section
variable {p : Params} {snap : Snapshot} {c : Context}

/-- The variant is checked by its number, then by what the CPU has (43_selection.md R234). -/
theorem commandResult_create (var : Nat) :
    commandResult p snap c (.create var) =
      if 3 ≤ var then .unknownVariant
      else if (var = 1 ∧ snap.sse2 = false) ∨ (var = 2 ∧ snap.avx2 = false) then .unsupportedVariant
      else .ok := by
  match var with
  | 0 => rfl
  | 1 => cases h : snap.sse2 <;> simp [commandResult, kindOfCode, supported, h]
  | 2 => cases h : snap.avx2 <;> simp [commandResult, kindOfCode, supported, h]
  | var + 3 => simp [commandResult, kindOfCode_eq_none]

/-- The end of the buffer as a number without sign: a positive length is the same number with and without it. -/
theorem bufMemSize_lt_iff (h : 0 < c.lLen.toInt) :
    (bufMemSize p : Int) < bufferAddr c + bufferLen c ↔
      p.bufMemLast.toNat + 1 < c.lAddr.toNat + c.lLen.toNat := by
  have hlen : bufferLen c = (c.lLen.toNat : Int) := by
    rw [← toNat_toInt_of_pos h]
    exact (Int.toNat_of_nonneg h.le).symm
  rw [hlen]
  exact_mod_cast Iff.rfl

theorem checkBuffer_getD_ok :
    (checkBuffer p c).getD .ok =
      if c.lAddr = 0 ∨ c.lLen.toInt ≤ 0 then .invalidArgument
      else if p.bufMemLast.toNat + 1 < c.lAddr.toNat + c.lLen.toNat then .accessFault
      else .ok := by
  rcases checkBuffer_cases p c with
    ⟨h, (hempty : c.lAddr = 0 ∨ c.lLen.toInt ≤ 0)⟩ | ⟨h, haddr, (hlen : 0 < c.lLen.toInt), hend⟩ |
      ⟨h, haddr, (hlen : 0 < c.lLen.toInt), hin⟩
  · rw [h, if_pos hempty]
    rfl
  · rw [h, if_neg (not_or.mpr ⟨haddr, not_le.mpr hlen⟩), if_pos ((bufMemSize_lt_iff hlen).mp hend)]
    rfl
  · rw [h, if_neg (not_or.mpr ⟨haddr, not_le.mpr hlen⟩), if_neg ((bufMemSize_lt_iff hlen).not.mp (not_lt.mpr hin))]
    rfl

theorem firstError_illegal {w : Word} (h : IllegalWord w) : firstError p snap c w = .illegalCommand := if_pos h

/-- For the word of a command, R263's order is the order of the command's own checks. -/
theorem firstError_of_decode {w : Word} {i : Instr} (h : decode w = .ok i) :
    firstError p snap c w = commandResult p snap c i := by
  have hlegal : ¬ IllegalWord w := exists_decode_eq_ok_iff.mp ⟨i, h⟩
  obtain ⟨hwf, rfl⟩ := encode_of_decode h
  rw [firstError, if_neg hlegal]
  cases i with
  | create var =>
    have hvar := wellFormed_create_iff.mp hwf
    have hopc : (2 + 0x100 * var) % 0x100 = 2 := by omega
    have hfield : (2 + 0x100 * var) / 0x100 % 0x10 = var := by omega
    rw [commandResult_create, toNat_encode_create hvar, hopc, hfield]
    simp
  | encrypt => simp [encode, commandResult, checkBuffer_getD_ok]
  | decrypt => simp [encode, commandResult, checkBuffer_getD_ok]
  | _ => simp [encode, commandResult]

end

/-- Performing a command in flight ends with the first error of its word. -/
theorem perform_endsWith {s : State} {k : Nat} {c : Context} {w : Word} (hc : s.ctxs[k]? = some c)
    (hw : c.pending = some w) :
    ∃ t, perform s k = .next t ∧ EndsWith { s with active := k } c (firstError s.params s.snap c w) t := by
  by_cases hillegal : IllegalWord w
  · rw [firstError_illegal hillegal]
    exact ⟨_, perform_illegal hc hw hillegal, .of_endCommand rfl⟩
  · obtain ⟨i, hi⟩ := exists_decode_eq_ok_iff.mpr hillegal
    rw [firstError_of_decode hi, perform_command hc hw hi]
    exact exec_endsWith (s := { s with active := k }) hc i

/-- Settles O33: an illegal word is reported before every other check, and a command makes its checks in R263's order. -/
theorem firstErrorIsReported : Obligations.FirstErrorIsReported := by
  intro s k rest c w hp hagenda hc hw
  obtain ⟨t, hperform, hends⟩ := perform_endsWith (s := { s with agenda := rest }) hc hw
  obtain ⟨d, hd, hidle, hcode, hsticky⟩ := hends.status hc
  exact ⟨t, d, (step_event hp hagenda).trans hperform, hd, hidle, hcode, hsticky⟩

end Sys2Proof.Machine
end

section
/-! PROOFS. A run with no host access left reaches its end (O8). -/

namespace Sys2Proof.Machine

/-! ### The end of a run -/

/-- A run that reaches a state in which it can end has ended by then: there or before. -/
theorem exists_runToEnd_of_run {s t : State} {m n : Nat} (h : Host.Core.run core m s = .next t) (ht : atEnd t = true)
    (hmn : m ≤ n) : ∃ u, runToEnd n s = some u := by
  induction m generalizing s n with
  | zero =>
    obtain rfl := Host.Outcome.next.inj h
    exact ⟨_, runToEnd_here n ht⟩
  | succ m ih =>
    obtain ⟨n, rfl⟩ := Nat.exists_eq_add_of_le' (Nat.one_le_of_lt hmn)
    cases hend : atEnd s with
    | true => exact ⟨s, runToEnd_here _ hend⟩
    | false =>
      cases hs : step s with
      | next u =>
        rw [run_next m hs] at h
        rw [runToEnd_step n hend hs]
        exact ih h (Nat.le_of_succ_le_succ hmn)
      | fault r => simp [Host.Core.run, core, hs] at h
      | refused r => simp [Host.Core.run, core, hs] at h

/-! ### Performing a command when the host has stopped -/

/-- The host has stopped and no reset is in progress; what is left to perform is of contexts that exist. -/
structure HostStopped (s : State) : Prop where
  running : s.phase = .running
  hostDone : hostDone s = true
  inRange : ∀ k, .perform k ∈ s.agenda → k < s.ctxs.length

section
variable {s t : State} {k n : Nat} {c : Context} {e : Event} {es : List Event}

theorem HostStopped.atEnd_iff (hs : HostStopped s) : atEnd s = true ↔ s.inFlight = 0 := by
  simp [Machine.atEnd_iff, hs.running, hs.hostDone]

theorem perform_keeps_agenda (h : perform s k = .next t) :
    t.phase = s.phase ∧ t.agenda = s.agenda ∧ t.ctxs.length = s.ctxs.length := by
  obtain rfl | ⟨c, d, m, r, -, -, rfl⟩ := perform_frame h
  · exact ⟨rfl, rfl, rfl⟩
  · exact ⟨rfl, rfl, List.length_set⟩

theorem HostStopped.perform (hs : HostStopped s) (h : perform s k = .next t) : HostStopped t := by
  obtain ⟨hphase, hagenda, hlength⟩ := perform_keeps_agenda h
  refine ⟨hphase.trans hs.running, ?_, ?_⟩
  · rw [Machine.hostDone, hagenda]
    exact hs.hostDone
  · rw [hagenda, hlength]
    exact hs.inRange

theorem HostStopped.tail (hs : HostStopped s) (hagenda : s.agenda = e :: es) :
    isHostAccess e = false ∧ HostStopped { s with agenda := es } := by
  have hdone := hs.hostDone
  simp only [Machine.hostDone, hagenda, List.all_cons, Bool.and_eq_true, Bool.not_eq_true'] at hdone
  obtain ⟨he, hes⟩ := hdone
  exact ⟨he, hs.running, hes, fun k hk => hs.inRange k (hagenda ▸ List.mem_cons_of_mem e hk)⟩

/-- A command that is performed is in flight no more (20_memory.md R80). -/
theorem perform_inFlight (hc : s.ctxs[k]? = some c) (hb : busy c = true) :
    ∃ t, perform s k = .next t ∧ t.inFlight + 1 = s.inFlight := by
  obtain ⟨w, hw⟩ := Option.isSome_iff_exists.mp hb
  obtain ⟨t, ht, d, m, -, rfl⟩ := perform_endsWith hc hw
  refine ⟨_, ht, ?_⟩
  obtain ⟨hk, rfl⟩ := List.getElem?_eq_some_iff.mp hc
  have hpos : 0 < s.ctxs.countP busy := List.countP_pos_iff.mpr ⟨_, List.getElem_mem hk, hb⟩
  have hidle : busy (withResult d (firstError s.params s.snap s.ctxs[k] w)) = false := rfl
  simp only [State.inFlight, endCommand_ctxs, List.countP_set hk, hb, hidle, if_true, Bool.false_eq_true, if_false]
  omega

/-- An idle context has nothing to perform (log 9). -/
theorem perform_idle (hc : s.ctxs[k]? = some c) (hp : c.pending = none) : perform s k = .next s := by
  simp [perform, hc, hp]

/-- A context that exists performs its command, if it has one. -/
theorem exists_perform (hk : k < s.ctxs.length) : ∃ t, perform s k = .next t ∧ t.inFlight ≤ s.inFlight := by
  have hc := List.getElem?_eq_getElem hk
  cases hb : busy s.ctxs[k] with
  | true =>
    obtain ⟨t, ht, hcount⟩ := perform_inFlight hc hb
    exact ⟨t, ht, by omega⟩
  | false => exact ⟨s, perform_idle hc (busy_eq_false_iff.mp hb), le_refl _⟩

/-! ### The commands in flight are performed one a step (log 3) -/

theorem step_drain (hs : HostStopped s) (hagenda : s.agenda = []) (hn : s.inFlight = n + 1) :
    ∃ t, step s = .next t ∧ HostStopped t ∧ t.agenda = [] ∧ t.inFlight = n := by
  cases hk : firstBusy s.ctxs with
  | none =>
    have hidle : s.inFlight = 0 := List.countP_eq_zero.mpr fun c hc => by
      simpa using List.findIdx?_eq_none_iff.mp hk c hc
    omega
  | some k =>
    obtain ⟨c, hc, hb⟩ := firstBusy_some hk
    obtain ⟨t, ht, hcount⟩ := perform_inFlight hc hb
    obtain ⟨-, hkeeps, -⟩ := perform_keeps_agenda ht
    refine ⟨t, ?_, hs.perform ht, hkeeps.trans hagenda, by omega⟩
    simpa [step, stepState, hs.running, hagenda, drain, hk] using ht

/-- With an empty agenda the run ends after as many steps as there are commands in flight. -/
theorem run_drain (hs : HostStopped s) (hagenda : s.agenda = []) (hn : s.inFlight = n) :
    ∃ t : State, Host.Core.run core n s = .next t ∧ runToEnd n s = some t := by
  induction n generalizing s with
  | zero => exact ⟨s, rfl, runToEnd_here 0 (hs.atEnd_iff.mpr hn)⟩
  | succ n ih =>
    obtain ⟨u, hstep, hu, huagenda, hcount⟩ := step_drain hs hagenda hn
    obtain ⟨t, hrun, hend⟩ := ih hu huagenda hcount
    have hnot : atEnd s = false := by simp [← Bool.not_eq_true, hs.atEnd_iff, hn]
    exact ⟨t, (run_next n hstep).trans hrun, (runToEnd_step n hnot hstep).trans hend⟩

/-! ### The events that are no access of the host -/

/-- Block reset drops what is in flight (log 10), so the run can end after its four steps. -/
theorem run_blockReset_atEnd (hs : HostStopped s) (hagenda : s.agenda = .blockReset :: es) :
    ∃ t : State, Host.Core.run core 4 s = .next t ∧ atEnd t = true := by
  have hrun := blockResetReachesTheResetState s es hs.running
  rw [← hagenda] at hrun
  refine ⟨_, hrun, Machine.atEnd_iff.mpr ⟨rfl, (hs.tail hagenda).2.hostDone, ?_⟩⟩
  exact List.countP_eq_zero.mpr fun c hc => by simp [List.eq_of_mem_replicate hc, Context.reset]

/-- Four steps pay for each event left, one for each command in flight. -/
theorem exists_run_atEnd (hs : HostStopped s) :
    ∃ m ≤ 4 * s.agenda.length + s.inFlight, ∃ t : State, Host.Core.run core m s = .next t ∧ atEnd t = true := by
  induction hagenda : s.agenda generalizing s with
  | nil =>
    obtain ⟨t, hrun, hend⟩ := run_drain hs hagenda rfl
    obtain ⟨-, -, -, ht, -⟩ := runToEnd_some hend
    exact ⟨s.inFlight, Nat.le_add_left _ _, t, hrun, ht⟩
  | cons e es ih =>
    obtain ⟨he, htail⟩ := hs.tail hagenda
    cases e with
    | perform k =>
      obtain ⟨u, hu, hcount⟩ := exists_perform (s := { s with agenda := es }) (hs.inRange k (by simp [hagenda]))
      obtain ⟨-, hkeeps, -⟩ := perform_keeps_agenda hu
      obtain ⟨m, hm, t, hrun, ht⟩ := ih (htail.perform hu) hkeeps
      have hle : u.inFlight ≤ s.inFlight := hcount
      exact ⟨m + 1, by simp only [List.length_cons]; omega, t,
        (run_next m ((step_event hs.running hagenda).trans hu)).trans hrun, ht⟩
    | blockReset => exact ⟨4, by simp only [List.length_cons]; omega, run_blockReset_atEnd hs hagenda⟩
    | _ => simp [isHostAccess] at he

end

/-- Settles O8: within the bound the run reaches a state in which it can end, and its end is the first such state. -/
theorem emptyAgendaDrainsToTheEnd : Obligations.EmptyAgendaDrainsToTheEnd := by
  intro s hp hdone hrange
  have hs : HostStopped s := ⟨hp, hdone, hrange⟩
  obtain ⟨m, hm, u, hrun, hu⟩ := exists_run_atEnd hs
  obtain ⟨t, ht⟩ := exists_runToEnd_of_run hrun hu hm
  obtain ⟨-, -, -, hend, -⟩ := runToEnd_some ht
  refine ⟨t, ht, hend, fun hagenda => ?_, fun hidle => ?_⟩
  · obtain ⟨v, hdrain, hv⟩ := run_drain hs hagenda rfl
    have htv : some t = some v := by simpa [hagenda, hv] using ht.symm
    rwa [Option.some.inj htv]
  · exact Option.some.inj (ht.symm.trans (runToEnd_here _ (hs.atEnd_iff.mpr hidle)))

end Sys2Proof.Machine
end
